-- ==== Sys2Proof/Word.lean ====
section
/-! DEFINITION. The words of MCUFC-1: what the spec treats as bits, and nothing else. -/

namespace Sys2Proof

/-- A byte, bits 7 down to 0 (00_scope.md R9). -/
abbrev Byte := BitVec 8

/-- A 16-bit field register's contents (10_state.md R27). -/
abbrev Half := BitVec 16

/-- A 10-bit host address (20_memory.md R35). -/
abbrev Addr := BitVec 10

/-- A 20-bit host transaction word (30_encoding.md R62). -/
abbrev TWord := BitVec 20

end Sys2Proof
end

