-- ==== Sys2Proof/Syntax.lean ====
section
/-! DEFINITION. The instructions of MCUFC-1, one constructor per row of spec/opcode_table.json; what an agent puts at a
port of the block; the names of the register map; the pseudo-instructions of host listings. -/

namespace Sys2Proof

/-- One constructor per row of spec/opcode_table.json: the nine commands and the illegal codes (a host write of CMD), the
host transactions with a row of their own, the generic transactions, and the two serial events. -/
inductive Instr where
  /-- NOP, `WR CMD, 0x00` (R102). -/
  | nop
  /-- DECODE, `WR CMD, 0x01` (R68). -/
  | decode
  /-- DECODE_STATUS, `WR CMD, 0x02` (R71). -/
  | decodeStatus
  /-- EXTRACT, `WR CMD, 0x03` (R92). -/
  | extract
  /-- CHECKSUM, `WR CMD, 0x04` (R101). -/
  | checksum
  /-- ENCODE_CONTROL, `WR CMD, 0x10` (R74). -/
  | encodeControl
  /-- ENCODE_QUERY, `WR CMD, 0x11` (R75). -/
  | encodeQuery
  /-- RX_CLEAR, `WR CMD, 0x20` (R103). -/
  | rxClear
  /-- TX_CLEAR, `WR CMD, 0x21` (R104). -/
  | txClear
  /-- `WR CMD, code` with a code outside R60 (R105). -/
  | illegalCmd (code : Byte)
  /-- `WR RX_DATA, b` (R40). -/
  | wrRxData (b : Byte)
  /-- `RD TX_DATA` (R41). -/
  | rdTxData
  /-- `WR a, d` at an address without a row of its own (R38). -/
  | wr (a : Addr) (d : Byte)
  /-- `RD a` at an address without a row of its own (R37). -/
  | rd (a : Addr)
  /-- `SER_RX b`: the serial RX source delivers b (R67). -/
  | serRx (b : Byte)
  /-- `SER_TX`: the serial TX sink takes the next byte (R76). The byte is the event's result, not an operand [log 9]. -/
  | serTx
  deriving DecidableEq, Repr

/-- The nine commands of 30_encoding.md R60. -/
inductive Cmd where
  | nop | decode | decodeStatus | extract | checksum | encodeControl | encodeQuery | rxClear | txClear
  deriving DecidableEq, Repr

/-- What an agent puts at its port: the host a transaction word (R62), the serial RX source a byte (R67), the serial TX
sink its readiness to take one (R76). -/
inductive PortItem where
  | word (w : TWord)
  | rxByte (b : Byte)
  | txTake
  deriving DecidableEq, Repr

/-- One event of the total order of R48: an item at a port, or the reset input (R121). -/
inductive Input where
  | item (p : PortItem)
  | reset
  deriving DecidableEq, Repr

/-- The six status fields, in the order of their index k (42_field_decoder.md R78). -/
inductive FieldId where
  /-- 0: vapor-line pressure. -/
  | vp
  /-- 1: liquid-line pressure. -/
  | lp
  /-- 2: vapor-line temperature. -/
  | vt
  /-- 3: liquid-line temperature. -/
  | lt
  /-- 4: outdoor-coil temperature. -/
  | oct
  /-- 5: indoor heat-exchanger temperature. -/
  | ihx
  deriving DecidableEq, Repr

/-- The three field encodings of 42_field_decoder.md R79. -/
inductive FieldEncoding where
  /-- (a) direct value (R82). -/
  | direct
  /-- (b) value minus n (R83). -/
  | minus (n : Nat)
  /-- (c) little-endian 16-bit (R84). -/
  | le16
  deriving DecidableEq, Repr

/-- The names of the register map of 20_memory.md R36; the windows carry their index. -/
inductive Reg where
  | cmd | err | stat | rxLen | expLen | frameType | frameSub | frameLen | cksumCalc | cksumRx | fvalid | txLen | txPtr
  | rxData | txData
  | fieldLo (k : FieldId)
  | fieldHi (k : FieldId)
  | txpay (i : Nat)
  | rxwin (i : Nat)
  | txwin (i : Nat)
  deriving DecidableEq, Repr

/-- The pseudo-instructions of host listings (30_encoding.md R66). `xfer` carries the byte each of its reads gives, as
the listing's `RD TX_DATA -> v` does [log 15]. -/
inductive Pseudo where
  | cmd (c : Cmd)
  | push (bs : List Byte)
  | pushz (n : Nat)
  | pop
  | xfer (vs : List Byte)
  | setpay (i : Nat) (b : Byte)
  | rd16 (k : FieldId)
  deriving DecidableEq, Repr

/-- A row of spec/opcode_table.json for the 20-bit words: `word &&& mask = fixed` says that a word fits it. -/
structure TableRow where
  mnemonic : String
  mask : TWord
  fixed : TWord
  deriving DecidableEq, Repr

end Sys2Proof
end

