-- ==== Sys2Proof/WellFormed.lean ====
section
/-! DEFINITION. Which instructions are well-formed: the operand values each row of spec/opcode_table.json admits. The
generic rows take "any address without its own row", ILLEGAL_CMD "any code without its own row". -/

namespace Sys2Proof

/-- The codes of the nine commands (30_encoding.md R60). -/
def legalCodes : List Byte := [0x00#8, 0x01#8, 0x02#8, 0x03#8, 0x04#8, 0x10#8, 0x11#8, 0x20#8, 0x21#8]

/-- The operands are among those the instruction's row admits. -/
def Instr.wf : Instr → Bool
  | .illegalCmd d => !legalCodes.contains d
  | .wr a _ => a != 0x000#10 && a != 0x00D#10
  | .rd a => a != 0x00E#10
  | .nop | .decode | .decodeStatus | .extract | .checksum | .encodeControl | .encodeQuery | .rxClear | .txClear => true
  | .wrRxData _ | .rdTxData | .serRx _ | .serTx => true

end Sys2Proof
end

