-- ==== Sys2Proof/Decode.lean ====
section
/-! DEFINITION. From what stands at a port to an instruction, and back (30_encoding.md). Decoding is total: a word that
spells no transaction is rejected by name (R63). -/

namespace Sys2Proof

/-- Why a 20-bit word spells no transaction (30_encoding.md R63). -/
inductive DecodeError where
  /-- Bit 18, reserved, is 1. -/
  | reservedBit18
  /-- A read word whose DATA field is not 0. -/
  | readWithData
  deriving DecidableEq, Repr

/-- The decoder's answer. -/
inductive Decoded where
  | instr (i : Instr)
  | reject (e : DecodeError)
  deriving DecidableEq, Repr

/-- The W field, bit 19: true for a write (30_encoding.md R62). -/
def TWord.isWrite (w : TWord) : Bool := w.getLsbD 19

/-- The reserved bit 18 (30_encoding.md R62). -/
def TWord.reserved (w : TWord) : Bool := w.getLsbD 18

/-- The ADDR field, bits 17:8 (30_encoding.md R62). -/
def TWord.addr (w : TWord) : Addr := w.extractLsb' 8 10

/-- The DATA field, bits 7:0 (30_encoding.md R62). -/
def TWord.data (w : TWord) : Byte := w.extractLsb' 0 8

/-- The command a code stands for, if it is one of the nine (30_encoding.md R60). -/
def cmdOfCode (d : Byte) : Option Cmd :=
  if d = 0x00#8 then some .nop
  else if d = 0x01#8 then some .decode
  else if d = 0x02#8 then some .decodeStatus
  else if d = 0x03#8 then some .extract
  else if d = 0x04#8 then some .checksum
  else if d = 0x10#8 then some .encodeControl
  else if d = 0x11#8 then some .encodeQuery
  else if d = 0x20#8 then some .rxClear
  else if d = 0x21#8 then some .txClear
  else none

/-- The instruction that runs a command. -/
def Cmd.instr : Cmd → Instr
  | .nop => .nop
  | .decode => .decode
  | .decodeStatus => .decodeStatus
  | .extract => .extract
  | .checksum => .checksum
  | .encodeControl => .encodeControl
  | .encodeQuery => .encodeQuery
  | .rxClear => .rxClear
  | .txClear => .txClear

/-- A write of `d` to CMD: one of the nine commands, else an illegal code (30_encoding.md R60, R61). -/
def decodeCode (d : Byte) : Instr :=
  match cmdOfCode d with
  | some c => c.instr
  | none => .illegalCmd d

/-- A host transaction word, most specific row first (30_encoding.md R62, R63). DESIGN CHOICE: a read word with bit 18 = 1 and
DATA other than 0, for which R63 and 93_implementation_defined.md U20 name no precedence, is refused as `reservedBit18`
[log 17]. -/
def decodeWord (w : TWord) : Decoded :=
  if TWord.reserved w then .reject .reservedBit18
  else if TWord.isWrite w then
    if TWord.addr w = 0x000#10 then .instr (decodeCode (TWord.data w))
    else if TWord.addr w = 0x00D#10 then .instr (.wrRxData (TWord.data w))
    else .instr (.wr (TWord.addr w) (TWord.data w))
  else if TWord.data w ≠ 0x00#8 then .reject .readWithData
  else if TWord.addr w = 0x00E#10 then .instr .rdTxData
  else .instr (.rd (TWord.addr w))

/-- What an item at a port asks of the block. -/
def decode : PortItem → Decoded
  | .word w => decodeWord w
  | .rxByte b => .instr (.serRx b)
  | .txTake => .instr .serTx

/-- The item an instruction of spec/opcode_table.json is, given its bits w: a byte of at most 8 bits is the first serial
row, SER_RX (SER_TX has the same 8 bits and no input of its own [log 9]); anything longer is a transaction word in its
low 20 bits [log 14]. -/
def portItemOf (nbits w : Nat) : PortItem :=
  if nbits ≤ 8 then .rxByte (BitVec.ofNat 8 w) else .word (BitVec.ofNat 20 w)

/-- The instruction the decoder reads from the opcode table's bits; none where it refuses, or where w does not fit the
byte or the 20-bit word [log 14]. -/
def decodeTableWord (nbits w : Nat) : Option Instr :=
  if (if nbits ≤ 8 then 2 ^ 8 else 2 ^ 20) ≤ w then none
  else
    match decode (portItemOf nbits w) with
    | .instr i => some i
    | .reject _ => none

/-! ### The encoder -/

/-- The code of a command (30_encoding.md R60). -/
def Cmd.code : Cmd → Byte
  | .nop => 0x00#8
  | .decode => 0x01#8
  | .decodeStatus => 0x02#8
  | .extract => 0x03#8
  | .checksum => 0x04#8
  | .encodeControl => 0x10#8
  | .encodeQuery => 0x11#8
  | .rxClear => 0x20#8
  | .txClear => 0x21#8

/-- `word = (W << 19) | (ADDR << 8) | DATA` (30_encoding.md R62). -/
def hostWord (w : Bool) (a : Addr) (d : Byte) : TWord :=
  (BitVec.ofBool w).setWidth 20 <<< 19 ||| a.setWidth 20 <<< 8 ||| d.setWidth 20

/-- The word of `CMD c` (30_encoding.md R66): a write of the command's code to CMD. -/
def Cmd.word (c : Cmd) : TWord := hostWord true 0x000#10 c.code

/-- The port item of an instruction. -/
def encode : Instr → PortItem
  | .nop => .word (Cmd.word .nop)
  | .decode => .word (Cmd.word .decode)
  | .decodeStatus => .word (Cmd.word .decodeStatus)
  | .extract => .word (Cmd.word .extract)
  | .checksum => .word (Cmd.word .checksum)
  | .encodeControl => .word (Cmd.word .encodeControl)
  | .encodeQuery => .word (Cmd.word .encodeQuery)
  | .rxClear => .word (Cmd.word .rxClear)
  | .txClear => .word (Cmd.word .txClear)
  | .illegalCmd d => .word (hostWord true 0x000#10 d)
  | .wrRxData b => .word (hostWord true 0x00D#10 b)
  | .rdTxData => .word (hostWord false 0x00E#10 0x00#8)
  | .wr a d => .word (hostWord true a d)
  | .rd a => .word (hostWord false a 0x00#8)
  | .serRx b => .rxByte b
  | .serTx => .txTake

/-! ### The opcode table as data -/

/-- The mnemonic of an instruction's row, as spec/opcode_table.json spells it. -/
def Instr.mnemonic : Instr → String
  | .nop => "NOP"
  | .decode => "DECODE"
  | .decodeStatus => "DECODE_STATUS"
  | .extract => "EXTRACT"
  | .checksum => "CHECKSUM"
  | .encodeControl => "ENCODE_CONTROL"
  | .encodeQuery => "ENCODE_QUERY"
  | .rxClear => "RX_CLEAR"
  | .txClear => "TX_CLEAR"
  | .illegalCmd _ => "ILLEGAL_CMD"
  | .wrRxData _ => "WR_RX_DATA"
  | .rdTxData => "RD_TX_DATA"
  | .wr _ _ => "WR"
  | .rd _ => "RD"
  | .serRx _ => "SER_RX"
  | .serTx => "SER_TX"

/-- The rows of spec/opcode_table.json that are 20-bit words, in the table's order, most specific first (R63). -/
def opcodeTable : List TableRow :=
  [⟨"NOP", 0xFFFFF#20, 0x80000#20⟩,
   ⟨"DECODE", 0xFFFFF#20, 0x80001#20⟩,
   ⟨"DECODE_STATUS", 0xFFFFF#20, 0x80002#20⟩,
   ⟨"EXTRACT", 0xFFFFF#20, 0x80003#20⟩,
   ⟨"CHECKSUM", 0xFFFFF#20, 0x80004#20⟩,
   ⟨"ENCODE_CONTROL", 0xFFFFF#20, 0x80010#20⟩,
   ⟨"ENCODE_QUERY", 0xFFFFF#20, 0x80011#20⟩,
   ⟨"RX_CLEAR", 0xFFFFF#20, 0x80020#20⟩,
   ⟨"TX_CLEAR", 0xFFFFF#20, 0x80021#20⟩,
   ⟨"ILLEGAL_CMD", 0xFFF00#20, 0x80000#20⟩,
   ⟨"WR_RX_DATA", 0xFFF00#20, 0x80D00#20⟩,
   ⟨"RD_TX_DATA", 0xFFFFF#20, 0x00E00#20⟩,
   ⟨"WR", 0xC0000#20, 0x80000#20⟩,
   ⟨"RD", 0xC00FF#20, 0x00000#20⟩]

/-- A word fits a row: `word & mask == match` (30_encoding.md R63). -/
def TableRow.fits (r : TableRow) (w : TWord) : Bool := w &&& r.mask == r.fixed

/-- The row a listing decoder takes for a word: the first that fits (30_encoding.md R63). -/
def firstRow (w : TWord) : Option TableRow := opcodeTable.find? (fun r => r.fits w)

end Sys2Proof
end

