-- ==== Sys2Proof/Config.lean ====
section
/-! DEFINITION. The implementation parameters of 00_scope.md R8, and the two values the spec leaves OPEN, as
constants with no body. -/

namespace Sys2Proof

/-- Which checksum generator the block has (43_checksum.md R97, R98): the default, or any other admissible one,
which is then `Config.freeChecksum` wherever R98 leaves the value open [log 6]. -/
inductive ChecksumSel where
  | sum8
  | custom
  deriving DecidableEq, Repr

/-- The parameters of 00_scope.md R8 that a step reads, as plain data [log 4]. `LIQ_T_SCALE`, which is applied outside
the block, is `Config.liqTScale`. -/
structure Params where
  /-- FIELD_BASE, in {0, 4}: the frame index of field offset 0. -/
  fieldBase : Nat
  /-- CHECKSUM_FN. -/
  checksum : ChecksumSel
  /-- LIQ_P_DIV, a positive integer: the liquid-pressure register counts 1/LIQ_P_DIV kPa. -/
  liqPDiv : Nat
  /-- IHX_OFFSET, in {0, 16}: subtracted from the indoor heat-exchanger byte. -/
  ihxOffset : Nat
  deriving DecidableEq, Repr

/-- The defaults of 00_scope.md R8. -/
def Params.default : Params where
  fieldBase := 0
  checksum := .sum8
  liqPDiv := 1
  ihxOffset := 16

/-- The parameters lie in their stated sets (00_scope.md R8). Outside them the model refuses the configuration before any
event runs (93_implementation_defined.md U24) [log 5]. -/
def Params.admissible (p : Params) : Bool :=
  (p.fieldBase == 0 || p.fieldBase == 4) && (p.ihxOffset == 0 || p.ihxOffset == 16) && decide (0 < p.liqPDiv)

/-- FREE VALUE: a checksum function other than the default, wherever 43_checksum.md R98 leaves its value open [log 6]. -/
opaque Config.freeChecksum : List Byte → Byte

/-- FREE VALUE: LIQ_T_SCALE (00_scope.md R8, OPEN), the temperature a raw liquid-line byte means; applied outside the
block (92_eei_decisions.md D20) [log 7]. -/
opaque Config.liqTScale : Byte → Rat

end Sys2Proof
end

