-- ==== Sys2Proof/Machine/State.lean ====
section
/-! DEFINITION. The state of MCUFC-1 (10_state.md R15), its reset value (70_reset_and_hazards.md R121), and the reasons a
step can stop. -/

namespace Sys2Proof.Machine

/-- A byte buffer: (index, byte) cells in one canonical form, indexes strictly rising and no cell equal to what an
unlisted index reads as (`Memory.wf`) [log 12]. -/
abbrev Memory := List Host.Cell

/-- The six 16-bit field registers FIELD[0..5] (10_state.md R27). -/
structure Fields where
  /-- FIELD[0]. -/
  vp : Half
  /-- FIELD[1]. -/
  lp : Half
  /-- FIELD[2]. -/
  vt : Half
  /-- FIELD[3]. -/
  lt : Half
  /-- FIELD[4], two's complement. -/
  oct : Half
  /-- FIELD[5], two's complement. -/
  ihx : Half
  deriving DecidableEq, Repr

/-- The result codes of 60_exceptions.md R107. They are values of ERR, not faults of the model (R120). -/
inductive ErrCode where
  | ok | badMarker | badLength | checksumMismatch | wrongType | outOfRange | noFrame | txBusy | rxOverflow | illegalCmd
  deriving DecidableEq, Repr

/-- The record of 10_state.md R15, then four fields that are the model's own. -/
structure State where
  /-- RXBUF[0..254] (R18). -/
  rxbuf : Memory
  /-- RX_LEN (R19). -/
  rxLen : Byte
  /-- RX_OVF (R20). -/
  rxOvf : Bool
  /-- FRAME_VALID (R21). -/
  frameValid : Bool
  /-- CKSUM_OK (R22). -/
  cksumOk : Bool
  /-- STATUS_VALID (R23). -/
  statusValid : Bool
  /-- FRAME_TYPE (R24). -/
  frameType : Byte
  /-- FRAME_SUB (R24). -/
  frameSub : Byte
  /-- FRAME_LEN (R24). -/
  frameLen : Byte
  /-- CKSUM_CALC (R25). -/
  cksumCalc : Byte
  /-- CKSUM_RX (R25). -/
  cksumRx : Byte
  /-- ERR (R26). -/
  err : Byte
  /-- FIELD[0..5] (R27). -/
  fields : Fields
  /-- FVALID (R28). -/
  fvalid : BitVec 6
  /-- TXPAY[0..34] (R29). -/
  txpay : Memory
  /-- TXBUF[0..39] (R30). -/
  txbuf : Memory
  /-- TX_LEN (R31). -/
  txLen : Byte
  /-- TX_PTR (R31). -/
  txPtr : Byte
  /-- The model's own: the parameters of 00_scope.md R8, arguments of every step, changed by none [log 4]. -/
  params : Params
  /-- The model's own: the events still to come, in the total order of R48, oldest first [log 1]. -/
  pending : List Input
  /-- The model's own: the bytes host reads have returned, oldest first [log 10]. -/
  reads : List Byte
  /-- The model's own: the bytes the serial TX sink has taken, oldest first [log 10]. -/
  line : List Byte
  deriving DecidableEq, Repr

/-- Every element of R15 at 0 (70_reset_and_hazards.md R121: "No value is unspecified"); the parameters at the defaults of
00_scope.md R8 [log 4], no event pending, nothing read and nothing sent [log 1, log 10]. -/
def State.reset : State where
  rxbuf := []
  rxLen := 0x00#8
  rxOvf := false
  frameValid := false
  cksumOk := false
  statusValid := false
  frameType := 0x00#8
  frameSub := 0x00#8
  frameLen := 0x00#8
  cksumCalc := 0x00#8
  cksumRx := 0x00#8
  err := 0x00#8
  fields := ⟨0x0000#16, 0x0000#16, 0x0000#16, 0x0000#16, 0x0000#16, 0x0000#16⟩
  fvalid := 0#6
  txpay := []
  txbuf := []
  txLen := 0x00#8
  txPtr := 0x00#8
  params := Params.default
  pending := []
  reads := []
  line := []

/-- No event of the block ends in a fault: every failure is a value in ERR (60_exceptions.md R106, R120), so there is no
reason to name [log 16]. Safe: there is nothing the model stops at here where the block goes on. -/
inductive Fault where
  deriving DecidableEq, Repr

/-- Why a step is refused. -/
inductive Refusal where
  /-- Raised by exec for an instruction that has no meaning yet; no arm does so. Safe. -/
  | notModelled (mnemonic : String)
  /-- Raised by step for a host transaction word with bit 18 = 1, which spells no transaction (30_encoding.md R63,
  93_implementation_defined.md U20). Safe. -/
  | reservedBit18
  /-- Raised by step for a read word with DATA other than 0, which spells no transaction (R63, U20). Safe. -/
  | readWithData
  /-- Raised by step, before any event runs, when a parameter lies outside its stated set (R8, R120, U24). Safe. -/
  | inadmissibleParams
  deriving DecidableEq, Repr

/-- What an instruction or a step answers. -/
abbrev Result := Host.Outcome State Fault Refusal

end Sys2Proof.Machine
end

