-- ==== Sys2Proof/Machine/Ops.lean ====
section
/-! DEFINITION. The shared operations: byte buffers, named updates of the state, ending a command with a result code,
the serial byte in and the serial byte out, and the reset event. -/

namespace Sys2Proof.Machine

/-! ### Byte buffers -/

/-- What an unlisted byte of a buffer reads as: its reset value (70_reset_and_hazards.md R121). -/
def Memory.unlisted : Byte := 0x00#8

/-- The byte at index i. -/
def Memory.read : Memory → Nat → Byte
  | [], _ => Memory.unlisted
  | (k, b) :: m, i => if k = i then b else Memory.read m i

/-- `m` without the byte at index i. -/
def Memory.erase (m : Memory) (i : Nat) : Memory := m.filter (fun c => c.1 != i)

/-- `m` with a cell put in at its place. -/
def Memory.insert : Memory → Nat → Byte → Memory
  | [], i, b => [(i, b)]
  | (k, c) :: m, i, b => if k < i then (k, c) :: Memory.insert m i b else (i, b) :: (k, c) :: m

/-- Write `b` at index i. Writing what an unlisted byte reads as removes the cell, so the canonical form is kept. -/
def Memory.write (m : Memory) (i : Nat) (b : Byte) : Memory :=
  if b = Memory.unlisted then m.erase i else (m.erase i).insert i b

/-- Write a list of bytes at indexes i, i + 1, and so on. -/
def Memory.writeList : Memory → Nat → List Byte → Memory
  | m, _, [] => m
  | m, i, b :: bs => Memory.writeList (m.write i b) (i + 1) bs

/-- The bytes at indexes 0 to n - 1, in wire order (20_memory.md R43). -/
def Memory.bytes (m : Memory) (n : Nat) : List Byte := (List.range n).map m.read

/-- Indexes strictly rising from `lo`, and no cell equal to what an unlisted byte reads as. -/
def Memory.wfFrom : Nat → Memory → Bool
  | _, [] => true
  | lo, (k, b) :: m => decide (lo ≤ k) && b != Memory.unlisted && Memory.wfFrom (k + 1) m

/-- The canonical form. -/
def Memory.wf (m : Memory) : Bool := Memory.wfFrom 0 m

/-- No cell lies at index n or above: the buffer holds n bytes. -/
def Memory.within (n : Nat) (m : Memory) : Bool := m.all (fun c => decide (c.1 < n))

/-! ### Named updates of the state -/

/-- ERR <- e. -/
def State.setErr (s : State) (e : Byte) : State := { s with err := e }

/-- FRAME_VALID <- 0; CKSUM_OK <- 0; STATUS_VALID <- 0: the read is no longer the one that was validated. -/
def State.dropFrame (s : State) : State := { s with frameValid := false, cksumOk := false, statusValid := false }

/-- FRAME_VALID <- 1; CKSUM_OK <- 1. -/
def State.acceptFrame (s : State) : State := { s with frameValid := true, cksumOk := true }

/-- STATUS_VALID <- v. -/
def State.setStatusValid (s : State) (v : Bool) : State := { s with statusValid := v }

/-- FRAME_TYPE, FRAME_SUB and FRAME_LEN. -/
def State.latch (s : State) (ty sub len : Byte) : State := { s with frameType := ty, frameSub := sub, frameLen := len }

/-- CKSUM_CALC and CKSUM_RX. -/
def State.setCksums (s : State) (c r : Byte) : State := { s with cksumCalc := c, cksumRx := r }

/-- FIELD[0..5] and FVALID. -/
def State.setFields (s : State) (f : Fields) (v : BitVec 6) : State := { s with fields := f, fvalid := v }

/-- RXBUF, RX_LEN and RX_OVF. -/
def State.setRead (s : State) (buf : Memory) (len : Byte) (ovf : Bool) : State :=
  { s with rxbuf := buf, rxLen := len, rxOvf := ovf }

/-- TXBUF, TX_LEN and TX_PTR. -/
def State.setTx (s : State) (buf : Memory) (len ptr : Byte) : State :=
  { s with txbuf := buf, txLen := len, txPtr := ptr }

/-- TXPAY. -/
def State.setTxpay (s : State) (buf : Memory) : State := { s with txpay := buf }

/-- The byte a host read returned. -/
def State.logRead (s : State) (b : Byte) : State := { s with reads := s.reads ++ [b] }

/-- The byte the serial TX sink took. -/
def State.logLine (s : State) (b : Byte) : State := { s with line := s.line ++ [b] }

/-- The events still to come. -/
def State.setPending (s : State) (es : List Input) : State := { s with pending := es }

/-! ### Ending a command with a result code -/

/-- The code of a result (60_exceptions.md R107). -/
def ErrCode.code : ErrCode → Byte
  | .ok => 0x00#8
  | .badMarker => 0x01#8
  | .badLength => 0x02#8
  | .checksumMismatch => 0x03#8
  | .wrongType => 0x04#8
  | .outOfRange => 0x05#8
  | .noFrame => 0x06#8
  | .txBusy => 0x07#8
  | .rxOverflow => 0x08#8
  | .illegalCmd => 0x09#8

/-- `raise E` of 00_scope.md R10, and `R.ERR <- OK`: set ERR and end the command. The block has no other way to report a
failure: nothing is saved, no mode changes, control goes nowhere, and there is nothing to return from (60_exceptions.md
R106, R111, R112). -/
def State.finish (s : State) (e : ErrCode) : State := s.setErr e.code

/-! ### The serial ports -/

/-- RxPush(b) (40_frame_receive.md R67). -/
def rxPush (b : Byte) (s : State) : State :=
  if s.rxLen.toNat < 255 then
    s.dropFrame.setRead (s.rxbuf.write s.rxLen.toNat b) (s.rxLen + 1#8) s.rxOvf
  else s.dropFrame.setRead s.rxbuf s.rxLen true

/-- The byte at TX_PTR, the next to be sent. -/
def State.nextTxByte (s : State) : Byte := s.txbuf.read s.txPtr.toNat

/-- TX_PENDING = (TX_PTR < TX_LEN) (10_state.md R32). -/
def State.txPending (s : State) : Bool := decide (s.txPtr.toNat < s.txLen.toNat)

/-- TX_PTR <- TX_PTR + 1 (41_frame_transmit.md R76). -/
def State.advanceTx (s : State) : State := s.setTx s.txbuf s.txLen (s.txPtr + 1#8)

/-- TxPop() as a host read makes it: 0x00 and no change with nothing pending (41_frame_transmit.md R76, 20_memory.md
R41). -/
def txPop (s : State) : Byte × State := if s.txPending then (s.nextTxByte, s.advanceTx) else (0x00#8, s)

/-- TxPop() as the serial TX sink makes it, the byte going out on the line. With nothing pending the sink has no step
(41_frame_transmit.md R76, 93_implementation_defined.md U21) and its turn passes [log 8]. -/
def sinkPop (s : State) : State := if s.txPending then s.advanceTx.logLine s.nextTxByte else s

/-! ### Reset and the refusals of the decoder -/

/-- The reset event (70_reset_and_hazards.md R121): every element of 10_state.md R15 takes its reset value. The
parameters stay (R124), and so does what is outside the block: the events the agents still bring (R123) and what host and
line have already received [log 11]. -/
def resetEvent (s : State) : State :=
  { State.reset with params := s.params, pending := s.pending, reads := s.reads, line := s.line }

/-- The refusal of a word the decoder rejects (30_encoding.md R63). -/
def refusalOf : DecodeError → Refusal
  | .reservedBit18 => .reservedBit18
  | .readWithData => .readWithData

end Sys2Proof.Machine
end

