-- ==== Sys2Proof/Machine/Operands.lean ====
section
/-! DEFINITION. Operand assembly at the value level (30_encoding.md R64): the frame shapes, the checksum generator, the
field table with its three encodings, and the register map as a function of the address. -/

namespace Sys2Proof.Machine

/-! ### Frames -/

/-- The byte of the marker (30_encoding.md R54). -/
def markerByte : Byte := 0x7E#8

/-- SHAPE, from the type byte to the frame's length; 0 is no shape (30_encoding.md R55). -/
def shape (ty : Byte) : Byte :=
  if ty = 0x02#8 then 5#8 else if ty = 0xFF#8 then 255#8 else if ty = 0x25#8 then 40#8 else 0#8

/-- The bytes before the checksum of the query frame (30_encoding.md R56). -/
def queryHead : List Byte := [markerByte, markerByte, 0x02#8, 0x02#8]

/-- The first four bytes of a control frame (30_encoding.md R58). -/
def controlHead : List Byte := [markerByte, markerByte, 0x25#8, 0x01#8]

/-! ### The checksum generator -/

/-- The default generator: the sum of the bytes from index 2 on, modulo 256 (43_checksum.md R97). -/
def sum8 (bs : List Byte) : Byte := BitVec.ofNat 8 ((bs.drop 2).map BitVec.toNat).sum

/-- CHECKSUM_FN. A custom one is any function at all, but for its value on 7E 7E 02 02, which 43_checksum.md R98 fixes at
0x04 [log 6]. -/
def checksumFn (p : Params) (bs : List Byte) : Byte :=
  match p.checksum with
  | .sum8 => sum8 bs
  | .custom => if bs = queryHead then 0x04#8 else Config.freeChecksum bs

/-! ### The field table -/

/-- The offset column of the field table (42_field_decoder.md R78). -/
def FieldId.offset : FieldId → Nat
  | .vp => 16
  | .lp => 60
  | .vt => 22
  | .lt => 56
  | .oct => 25
  | .ihx => 64

/-- The encoding column of the field table (42_field_decoder.md R78). -/
def FieldId.encoding (p : Params) : FieldId → FieldEncoding
  | .vp => .direct
  | .lp => .le16
  | .vt => .direct
  | .lt => .direct
  | .oct => .minus 16
  | .ihx => .minus p.ihxOffset

/-- The width column of the field table (42_field_decoder.md R78). -/
def FieldId.width : FieldId → Nat
  | .lp => 2
  | .vp | .vt | .lt | .oct | .ihx => 1

/-- The index k of a field, and of its bit in FVALID (42_field_decoder.md R78). -/
def FieldId.index : FieldId → Nat
  | .vp => 0
  | .lp => 1
  | .vt => 2
  | .lt => 3
  | .oct => 4
  | .ihx => 5

/-- Encoding (a), direct (42_field_decoder.md R82). -/
def directValue (b : Byte) : Half := b.setWidth 16

/-- Encoding (b), minus n, modulo 2^16 (42_field_decoder.md R83). -/
def minusValue (n : Nat) (b : Byte) : Half := BitVec.ofInt 16 ((b.toNat : Int) - n)

/-- Encoding (c), little-endian 16-bit (42_field_decoder.md R84). -/
def le16Value (lo hi : Byte) : Half := BitVec.ofNat 16 (lo.toNat + 256 * hi.toNat)

/-- The frame index of a field's first byte (42_field_decoder.md R80). -/
def fieldIndex (p : Params) (k : FieldId) : Nat := p.fieldBase + FieldId.offset k

/-- decode_k (42_field_decoder.md R85 to R90); nothing is clamped (R95). -/
def decodeField (p : Params) (buf : Memory) (k : FieldId) : Half :=
  match FieldId.encoding p k with
  | .direct => directValue (buf.read (fieldIndex p k))
  | .minus n => minusValue n (buf.read (fieldIndex p k))
  | .le16 => le16Value (buf.read (fieldIndex p k)) (buf.read (fieldIndex p k + 1))

/-- Field k is in range for a read of n bytes (42_field_decoder.md R81). -/
def fieldInRange (p : Params) (n : Nat) (k : FieldId) : Bool := decide (fieldIndex p k + FieldId.width k ≤ n)

/-- The register of a field. -/
def Fields.get (f : Fields) : FieldId → Half
  | .vp => f.vp
  | .lp => f.lp
  | .vt => f.vt
  | .lt => f.lt
  | .oct => f.oct
  | .ihx => f.ihx

/-! ### The register map -/

/-- What stands at a host address; none where it is reserved (20_memory.md R36). -/
def regAt (a : Addr) : Option Reg :=
  match a.toNat with
  | 0x000 => some .cmd
  | 0x001 => some .err
  | 0x002 => some .stat
  | 0x003 => some .rxLen
  | 0x004 => some .expLen
  | 0x005 => some .frameType
  | 0x006 => some .frameSub
  | 0x007 => some .frameLen
  | 0x008 => some .cksumCalc
  | 0x009 => some .cksumRx
  | 0x00A => some .fvalid
  | 0x00B => some .txLen
  | 0x00C => some .txPtr
  | 0x00D => some .rxData
  | 0x00E => some .txData
  | 0x010 => some (.fieldLo .vp)
  | 0x011 => some (.fieldHi .vp)
  | 0x012 => some (.fieldLo .lp)
  | 0x013 => some (.fieldHi .lp)
  | 0x014 => some (.fieldLo .vt)
  | 0x015 => some (.fieldHi .vt)
  | 0x016 => some (.fieldLo .lt)
  | 0x017 => some (.fieldHi .lt)
  | 0x018 => some (.fieldLo .oct)
  | 0x019 => some (.fieldHi .oct)
  | 0x01A => some (.fieldLo .ihx)
  | 0x01B => some (.fieldHi .ihx)
  | n =>
    if 0x020 ≤ n ∧ n ≤ 0x042 then some (.txpay (n - 0x020))
    else if 0x100 ≤ n ∧ n ≤ 0x1FE then some (.rxwin (n - 0x100))
    else if 0x200 ≤ n ∧ n ≤ 0x227 then some (.txwin (n - 0x200))
    else none

/-- The address of a name of the register map, as the listing syntax writes it (30_encoding.md R65). -/
def regAddr : Reg → Addr
  | .cmd => 0x000#10
  | .err => 0x001#10
  | .stat => 0x002#10
  | .rxLen => 0x003#10
  | .expLen => 0x004#10
  | .frameType => 0x005#10
  | .frameSub => 0x006#10
  | .frameLen => 0x007#10
  | .cksumCalc => 0x008#10
  | .cksumRx => 0x009#10
  | .fvalid => 0x00A#10
  | .txLen => 0x00B#10
  | .txPtr => 0x00C#10
  | .rxData => 0x00D#10
  | .txData => 0x00E#10
  | .fieldLo k => BitVec.ofNat 10 (0x010 + 2 * FieldId.index k)
  | .fieldHi k => BitVec.ofNat 10 (0x011 + 2 * FieldId.index k)
  | .txpay i => BitVec.ofNat 10 (0x020 + i)
  | .rxwin i => BitVec.ofNat 10 (0x100 + i)
  | .txwin i => BitVec.ofNat 10 (0x200 + i)

end Sys2Proof.Machine
end

