-- ==== Sys2Proof/Machine/Flags.lean ====
section
/-! DEFINITION. The values the block computes at every read and does not store (10_state.md R32, R33). -/

namespace Sys2Proof.Machine

/-- The read begins with the marker 7E 7E (30_encoding.md R54). -/
def State.hasMarker (s : State) : Bool := s.rxbuf.read 0 == markerByte && s.rxbuf.read 1 == markerByte

/-- EXP_LEN: the length the type byte implies, once marker and type byte have arrived, else 0 (10_state.md R32). -/
def State.expLen (s : State) : Byte :=
  if 3 ≤ s.rxLen.toNat ∧ s.hasMarker then shape (s.rxbuf.read 2) else 0x00#8

/-- FRAME_COMPLETE: the read has exactly the expected length (10_state.md R32). -/
def State.frameComplete (s : State) : Bool := s.expLen != 0x00#8 && s.rxLen == s.expLen && !s.rxOvf

/-- The STAT byte, bit 0 first; bits 7:6 are always 0 (10_state.md R33). -/
def State.stat (s : State) : Byte :=
  BitVec.ofBoolListLE
    [s.frameValid, s.cksumOk, s.statusValid, s.rxOvf, s.frameComplete, s.txPending, false, false]

end Sys2Proof.Machine
end

