-- ==== Sys2Proof/Machine/BufferControl.lean ====
section
/-! DEFINITION. Family buffer control: NOP, RX_CLEAR, TX_CLEAR and the illegal codes (44_buffer_control.md). -/

namespace Sys2Proof.Machine

/-- NOP: no effect, ERR keeps its value (44_buffer_control.md R102). -/
def nopCmd (s : State) : State := s

/-- RX_CLEAR: an empty read; RXBUF's bytes stay (44_buffer_control.md R103). -/
def rxClearCmd (s : State) : State := (s.dropFrame.setRead s.rxbuf 0#8 false).finish .ok

/-- TX_CLEAR: no frame to send; TXBUF's bytes stay (44_buffer_control.md R104). -/
def txClearCmd (s : State) : State := (s.setTx s.txbuf 0#8 0#8).finish .ok

/-- ILLEGAL(d): only ERR changes (44_buffer_control.md R105). -/
def illegalCmd (s : State) : State := s.finish .illegalCmd

/-- NOP (0x00), R102. -/
def execNop (s : State) : Result := .next (nopCmd s)

/-- RX_CLEAR (0x20), R103. -/
def execRxClear (s : State) : Result := .next (rxClearCmd s)

/-- TX_CLEAR (0x21), R104. -/
def execTxClear (s : State) : Result := .next (txClearCmd s)

/-- An illegal code, R105: the effect is the same for every one of them. -/
def execIllegalCmd (_code : Byte) (s : State) : Result := .next (illegalCmd s)

end Sys2Proof.Machine
end

