-- ==== Sys2Proof/Machine/Checksum.lean ====
section
/-! DEFINITION. Family CHECKSUM (43_checksum.md). -/

namespace Sys2Proof.Machine

/-- CHECKSUM: the generator over the whole current read (43_checksum.md R101). -/
def checksumCmd (s : State) : State :=
  if s.rxOvf then (s.setCksums 0x00#8 s.cksumRx).finish .rxOverflow
  else (s.setCksums (checksumFn s.params (s.rxbuf.bytes s.rxLen.toNat)) s.cksumRx).finish .ok

/-- CHECKSUM (0x04), R101. -/
def execChecksum (s : State) : Result := .next (checksumCmd s)

end Sys2Proof.Machine
end

