-- ==== Sys2Proof/Machine/FieldDecoder.lean ====
section
/-! DEFINITION. Family field decoder: ExtractFields and EXTRACT (42_field_decoder.md). -/

namespace Sys2Proof.Machine

/-- What ExtractFields writes to FIELD[k]: the decoded value, or 0x0000 out of range (42_field_decoder.md R91). -/
def fieldValue (s : State) (n : Nat) (k : FieldId) : Half :=
  if fieldInRange s.params n k then decodeField s.params s.rxbuf k else 0x0000#16

/-- FIELD[0..5] as ExtractFields leaves them (42_field_decoder.md R91). -/
def extractedFields (s : State) (n : Nat) : Fields where
  vp := fieldValue s n .vp
  lp := fieldValue s n .lp
  vt := fieldValue s n .vt
  lt := fieldValue s n .lt
  oct := fieldValue s n .oct
  ihx := fieldValue s n .ihx

/-- FVALID as ExtractFields leaves it, bit k for field k (42_field_decoder.md R91). -/
def extractedValid (p : Params) (n : Nat) : BitVec 6 :=
  BitVec.ofBoolListLE
    [fieldInRange p n .vp, fieldInRange p n .lp, fieldInRange p n .vt, fieldInRange p n .lt, fieldInRange p n .oct,
     fieldInRange p n .ihx]

/-- ExtractFields(n): write FIELD and FVALID, each field decided on its own (42_field_decoder.md R91). -/
def extractFields (n : Nat) (s : State) : State := s.setFields (extractedFields s n) (extractedValid s.params n)

/-- What ExtractFields(n) returns: every field was in range (42_field_decoder.md R91). -/
def allInRange (p : Params) (n : Nat) : Bool :=
  fieldInRange p n .vp && fieldInRange p n .lp && fieldInRange p n .vt && fieldInRange p n .lt && fieldInRange p n .oct
    && fieldInRange p n .ihx

/-- EXTRACT: the field decoder over the current read (42_field_decoder.md R92). -/
def extractCmd (s : State) : State :=
  (extractFields s.rxLen.toNat (s.setStatusValid false)).finish
    (if allInRange s.params s.rxLen.toNat then .ok else .outOfRange)

/-- EXTRACT (0x03), R92. -/
def execExtract (s : State) : Result := .next (extractCmd s)

end Sys2Proof.Machine
end

