-- ==== Sys2Proof/Machine/Receive.lean ====
section
/-! DEFINITION. Family frame receive: DECODE, DECODE_STATUS and the two ways to push a byte (40_frame_receive.md). -/

namespace Sys2Proof.Machine

/-- What every DECODE does first: the flags, the latches and the two checksum bytes go to 0 (40_frame_receive.md R68). -/
def decodeStart (s : State) : State := (s.dropFrame.latch 0x00#8 0x00#8 0x00#8).setCksums 0x00#8 0x00#8

/-- The generator over every byte of the read but the last, as DECODE calls it (40_frame_receive.md R68). -/
def readChecksum (s : State) : Byte := checksumFn s.params (s.rxbuf.bytes (s.rxLen.toNat - 1))

/-- The last byte of the read. -/
def lastByte (s : State) : Byte := s.rxbuf.read (s.rxLen.toNat - 1)

/-- DECODE: marker, then shape, then checksum; the first failing check is reported (40_frame_receive.md R68). -/
def decodeCmd (s : State) : State :=
  if s.rxLen.toNat < 2 ∨ s.hasMarker = false then (decodeStart s).finish .badMarker
  else if s.rxLen.toNat < 3 then (decodeStart s).finish .badLength
  else if s.rxOvf = true ∨ shape (s.rxbuf.read 2) = 0x00#8 ∨ s.rxLen ≠ shape (s.rxbuf.read 2) then
    (decodeStart s).finish .badLength
  else if readChecksum s ≠ lastByte s then
    ((decodeStart s).setCksums (readChecksum s) (lastByte s)).finish .checksumMismatch
  else
    ((((decodeStart s).setCksums (readChecksum s) (lastByte s)).acceptFrame).latch
      (s.rxbuf.read 2) (s.rxbuf.read 3) s.rxLen).finish .ok

/-- The status response signature FF E0 at indexes 2 and 3 (30_encoding.md R57). -/
def hasStatusSignature (s : State) : Bool := s.rxbuf.read 2 == 0xFF#8 && s.rxbuf.read 3 == 0xE0#8

/-- DECODE_STATUS: signature check, then the fields of the held frame (40_frame_receive.md R71). -/
def decodeStatusCmd (s : State) : State :=
  if s.frameValid = false then (s.setStatusValid false).finish .noFrame
  else if hasStatusSignature s = false then (s.setStatusValid false).finish .wrongType
  else ((extractFields s.rxLen.toNat s).setStatusValid true).finish .ok

/-- DECODE (0x01), R68. -/
def execDecode (s : State) : Result := .next (decodeCmd s)

/-- DECODE_STATUS (0x02), R71. -/
def execDecodeStatus (s : State) : Result := .next (decodeStatusCmd s)

/-- SER_RX b: the serial RX source delivers b (40_frame_receive.md R67). -/
def execSerRx (b : Byte) (s : State) : Result := .next (rxPush b s)

/-- WR RX_DATA, b: exactly RxPush(b) (20_memory.md R40). -/
def execWrRxData (b : Byte) (s : State) : Result := .next (rxPush b s)

end Sys2Proof.Machine
end

