-- ==== Sys2Proof/Machine/Transmit.lean ====
section
/-! DEFINITION. Family frame transmit: ENCODE_CONTROL, ENCODE_QUERY and the two ways to pop a byte
(41_frame_transmit.md). -/

namespace Sys2Proof.Machine

/-- `buf` with the bytes of `body` from index 0 and, after them, their checksum (41_frame_transmit.md R74, R75). -/
def writeFrame (p : Params) (buf : Memory) (body : List Byte) : Memory :=
  (buf.writeList 0 body).write body.length (checksumFn p ((buf.writeList 0 body).bytes body.length))

/-- The bytes of a control frame before its checksum: head and TXPAY[0..34] (41_frame_transmit.md R74). -/
def controlBody (s : State) : List Byte := controlHead ++ s.txpay.bytes 35

/-- ENCODE_CONTROL: the 40-byte control frame, unless an earlier frame has bytes not yet sent (41_frame_transmit.md
R74). -/
def encodeControlCmd (s : State) : State :=
  if s.txPending then s.finish .txBusy
  else (s.setTx (writeFrame s.params s.txbuf (controlBody s)) 40#8 0#8).finish .ok

/-- ENCODE_QUERY: the 5-byte query frame; TXBUF[5..39] stay (41_frame_transmit.md R75). -/
def encodeQueryCmd (s : State) : State :=
  if s.txPending then s.finish .txBusy
  else (s.setTx (writeFrame s.params s.txbuf queryHead) 5#8 0#8).finish .ok

/-- ENCODE_CONTROL (0x10), R74. -/
def execEncodeControl (s : State) : Result := .next (encodeControlCmd s)

/-- ENCODE_QUERY (0x11), R75. -/
def execEncodeQuery (s : State) : Result := .next (encodeQueryCmd s)

/-- RD TX_DATA: exactly TxPop(), always enabled (20_memory.md R41). -/
def execRdTxData (s : State) : Result := .next ((txPop s).2.logRead (txPop s).1)

/-- SER_TX: the serial TX sink takes the next byte, if there is one (41_frame_transmit.md R76). -/
def execSerTx (s : State) : Result := .next (sinkPop s)

end Sys2Proof.Machine
end

