-- ==== Sys2Proof/Machine/HostAccess.lean ====
section
/-! DEFINITION. Family host access: the register map, host reads and host writes (20_memory.md). -/

namespace Sys2Proof.Machine

/-- The read value of a register (20_memory.md R36). CMD and RX_DATA read 0x00 (R37); TX_DATA gives the byte its pop
returns. -/
def readValue (s : State) : Reg → Byte
  | .cmd | .rxData => 0x00#8
  | .err => s.err
  | .stat => s.stat
  | .rxLen => s.rxLen
  | .expLen => s.expLen
  | .frameType => s.frameType
  | .frameSub => s.frameSub
  | .frameLen => s.frameLen
  | .cksumCalc => s.cksumCalc
  | .cksumRx => s.cksumRx
  | .fvalid => s.fvalid.setWidth 8
  | .txLen => s.txLen
  | .txPtr => s.txPtr
  | .txData => (txPop s).1
  | .fieldLo k => (s.fields.get k).extractLsb' 0 8
  | .fieldHi k => (s.fields.get k).extractLsb' 8 8
  | .txpay i => s.txpay.read i
  | .rxwin i => s.rxbuf.read i
  | .txwin i => s.txbuf.read i

/-- The byte a host read of an address returns; a reserved address gives 0x00 (20_memory.md R36, R37). -/
def hostByte (a : Addr) (s : State) : Byte :=
  match regAt a with
  | some r => readValue s r
  | none => 0x00#8

/-- HostRead(a): the byte and the state after it. Only a read of TX_DATA changes state (20_memory.md R37). -/
def hostRead (a : Addr) (s : State) : Byte × State :=
  if regAt a = some .txData then txPop s else (hostByte a s, s)

/-- The effect of a command (30_encoding.md R60). -/
def runCmd (s : State) : Cmd → State
  | .nop => nopCmd s
  | .decode => decodeCmd s
  | .decodeStatus => decodeStatusCmd s
  | .extract => extractCmd s
  | .checksum => checksumCmd s
  | .encodeControl => encodeControlCmd s
  | .encodeQuery => encodeQueryCmd s
  | .rxClear => rxClearCmd s
  | .txClear => txClearCmd s

/-- Execute(d): the command whose code is d, else the illegal-command rule (20_memory.md R39). -/
def execute (d : Byte) (s : State) : State :=
  match cmdOfCode d with
  | some c => runCmd s c
  | none => illegalCmd s

/-- HostWrite(a, d) (20_memory.md R38): CMD runs a command, RX_DATA pushes, TXPAY is written, everything else ignores the
write. -/
def hostWrite (a : Addr) (d : Byte) (s : State) : State :=
  match regAt a with
  | some .cmd => execute d s
  | some .rxData => rxPush d s
  | some (.txpay i) => s.setTxpay (s.txpay.write i d)
  | _ => s

/-- WR a, d: HostWrite(a, d) whole, the addresses with a row of their own included (20_memory.md R38) [log 13]. -/
def execWr (a : Addr) (d : Byte) (s : State) : Result := .next (hostWrite a d s)

/-- RD a: HostRead(a) whole, the byte returned to the host (20_memory.md R37) [log 13]. -/
def execRd (a : Addr) (s : State) : Result := .next ((hostRead a s).2.logRead (hostRead a s).1)

end Sys2Proof.Machine
end

