-- ==== Sys2Proof/Machine/Dispatch.lean ====
section
/-! DEFINITION. One arm per instruction: its meaning. -/

namespace Sys2Proof.Machine

def exec (i : Instr) (s : State) : Host.Outcome State Fault Refusal :=
  match i with
  | .nop => Sys2Proof.Machine.execNop s
  | .decode => Sys2Proof.Machine.execDecode s
  | .decodeStatus => Sys2Proof.Machine.execDecodeStatus s
  | .extract => Sys2Proof.Machine.execExtract s
  | .checksum => Sys2Proof.Machine.execChecksum s
  | .encodeControl => Sys2Proof.Machine.execEncodeControl s
  | .encodeQuery => Sys2Proof.Machine.execEncodeQuery s
  | .rxClear => Sys2Proof.Machine.execRxClear s
  | .txClear => Sys2Proof.Machine.execTxClear s
  | .illegalCmd code => Sys2Proof.Machine.execIllegalCmd code s
  | .wrRxData b => Sys2Proof.Machine.execWrRxData b s
  | .rdTxData => Sys2Proof.Machine.execRdTxData s
  | .wr a d => Sys2Proof.Machine.execWr a d s
  | .rd a => Sys2Proof.Machine.execRd a s
  | .serRx b => Sys2Proof.Machine.execSerRx b s
  | .serTx => Sys2Proof.Machine.execSerTx s

end Sys2Proof.Machine
end

