-- ==== Sys2Proof/Machine/Step.lean ====
section
/-! DEFINITION. One step: the next event of the total order of 20_memory.md R48. -/

namespace Sys2Proof.Machine

/-- One step. Parameters outside their sets are refused before any event runs (93_implementation_defined.md U24). With no
event to come the block waits, unchanged [log 2]. The reset input resets (70_reset_and_hazards.md R121); any other event is
decoded and run, or refused by name where it spells no transaction (30_encoding.md R63). -/
def step (s : State) : Host.Outcome State Fault Refusal :=
  if s.params.admissible then
    match s.pending with
    | [] => .next s
    | .reset :: rest => .next (resetEvent (s.setPending rest))
    | .item p :: rest =>
      match decode p with
      | .instr i => exec i (s.setPending rest)
      | .reject e => .refused (refusalOf e)
  else .refused .inadmissibleParams

/-- `s` with the instruction of these bits as the next event, before those already pending [log 3]. -/
def State.withFetchWord (s : State) (nbits w : Nat) : State := s.setPending (.item (portItemOf nbits w) :: s.pending)

end Sys2Proof.Machine
end

