-- ==== Sys2Proof/Machine/Listing.lean ====
section
/-! DEFINITION. Host listings: what the pseudo-instructions of 30_encoding.md R66 expand to, as port items. -/

namespace Sys2Proof.Machine

/-- The word of `WR <register>, d` (30_encoding.md R65). -/
def wrReg (r : Reg) (d : Byte) : PortItem := .word (hostWord true (regAddr r) d)

/-- The word of `RD <register>` (30_encoding.md R65). -/
def rdReg (r : Reg) : PortItem := .word (hostWord false (regAddr r) 0x00#8)

/-- The expansion column of 30_encoding.md R66. -/
def expand : Pseudo → List PortItem
  | .cmd c => [wrReg .cmd c.code]
  | .push bs => bs.map (wrReg .rxData)
  | .pushz n => List.replicate n (wrReg .rxData 0x00#8)
  | .pop => [rdReg .txData]
  | .xfer vs => vs.flatMap (fun v => [rdReg .txData, wrReg .rxData v])
  | .setpay i b => [wrReg (.txpay i) b]
  | .rd16 k => [rdReg (.fieldLo k), rdReg (.fieldHi k)]

end Sys2Proof.Machine
end

