-- ==== Sys2Proof/Machine/Units.lean ====
section
/-! DEFINITION. What a field register's value means, outside the block: v in units u is v times u (00_scope.md R12;
42_field_decoder.md R78, R85 to R90). The block itself never divides or rounds (R79) [log 7]. -/

namespace Sys2Proof.Machine

/-- The unit column of the field table (42_field_decoder.md R78), as the quantity a register value stands for:
bar, kPa, degrees Fahrenheit, LIQ_T_SCALE's own unit, degrees Celsius twice. -/
def fieldQuantity (p : Params) (v : Half) : FieldId → Rat
  | .vp => (v.toNat : Rat) / 10
  | .lp => (v.toNat : Rat) / (p.liqPDiv : Rat)
  | .vt => (v.toNat : Rat)
  | .lt => Config.liqTScale (v.extractLsb' 0 8)
  | .oct => (v.toInt : Rat)
  | .ihx => (v.toInt : Rat)

end Sys2Proof.Machine
end

