-- ==== Sys2Proof/Safety.lean ====
section
/-! DEFINITION. What claims about MCUFC-1 are stated in: the invariants of 10_state.md R34, the reachable states, running
several instructions, and the source's `decode` over a whole byte sequence (40_frame_receive.md R69). -/

namespace Sys2Proof.Machine

/-! ### The invariants of 10_state.md R34 -/

/-- I1: RX_OVF = 1 implies RX_LEN = 255. -/
abbrev State.OverflowMeansFull (s : State) : Prop := s.rxOvf = true → s.rxLen = 255#8

/-- I2: TX_PTR ≤ TX_LEN, and TX_LEN is 0, 5 or 40. -/
abbrev State.TxPointerInFrame (s : State) : Prop :=
  s.txPtr.toNat ≤ s.txLen.toNat ∧ (s.txLen = 0#8 ∨ s.txLen = 5#8 ∨ s.txLen = 40#8)

/-- I3: CKSUM_OK = FRAME_VALID. -/
abbrev State.ChecksumFlagFollowsFrame (s : State) : Prop := s.cksumOk = s.frameValid

/-- I4: what FRAME_VALID = 1 says of the read, the latches and CKSUM_RX. -/
abbrev State.ValidFrameHeld (s : State) : Prop :=
  s.frameValid = true →
    s.rxOvf = false ∧
    s.rxLen = s.frameLen ∧ s.frameLen = shape (s.rxbuf.read 2) ∧ shape (s.rxbuf.read 2) ≠ 0#8 ∧
    s.rxbuf.read 0 = 0x7E#8 ∧ s.rxbuf.read 1 = 0x7E#8 ∧
    s.frameType = s.rxbuf.read 2 ∧ s.frameSub = s.rxbuf.read 3 ∧
    s.cksumRx = s.rxbuf.read (s.rxLen.toNat - 1) ∧
    s.cksumRx = checksumFn s.params (s.rxbuf.bytes (s.rxLen.toNat - 1))

/-- I5: what STATUS_VALID = 1 says; the last clause is 92_eei_decisions.md D26, the fields are the decode of the frame now
in the buffer. -/
abbrev State.StatusFieldsCurrent (s : State) : Prop :=
  s.statusValid = true →
    s.frameValid = true ∧ s.frameType = 0xFF#8 ∧ s.frameSub = 0xE0#8 ∧ s.fvalid = 0b111111#6 ∧
    s.fields = extractedFields s s.rxLen.toNat

/-- FVALID[k] = 0 means FIELD[k] = 0x0000 (10_state.md R28). -/
abbrev State.InvalidFieldsZero (s : State) : Prop :=
  (s.fvalid.getLsbD 0 = false → s.fields.vp = 0#16) ∧ (s.fvalid.getLsbD 1 = false → s.fields.lp = 0#16) ∧
  (s.fvalid.getLsbD 2 = false → s.fields.vt = 0#16) ∧ (s.fvalid.getLsbD 3 = false → s.fields.lt = 0#16) ∧
  (s.fvalid.getLsbD 4 = false → s.fields.oct = 0#16) ∧ (s.fvalid.getLsbD 5 = false → s.fields.ihx = 0#16)

/-- The ranges of 10_state.md R15: ERR in 0x00 to 0x09, FRAME_LEN one of 0, 5, 40, 255. -/
abbrev State.RegistersInRange (s : State) : Prop :=
  s.err.toNat ≤ 9 ∧ (s.frameLen = 0#8 ∨ s.frameLen = 5#8 ∨ s.frameLen = 40#8 ∨ s.frameLen = 255#8)

/-- The three buffers are in canonical form and hold 255, 35 and 40 bytes. -/
abbrev State.BuffersCanonical (s : State) : Prop :=
  s.rxbuf.wf = true ∧ s.rxbuf.within 255 = true ∧
  s.txpay.wf = true ∧ s.txpay.within 35 = true ∧
  s.txbuf.wf = true ∧ s.txbuf.within 40 = true

/-- The invariant of the machine: I1 to I5 of 10_state.md R34, the ranges of R15, R28, and the buffers' form. (I6 says
there is no converse of I4.) -/
structure State.Inv (s : State) : Prop where
  overflowMeansFull : s.OverflowMeansFull
  txPointerInFrame : s.TxPointerInFrame
  checksumFlagFollowsFrame : s.ChecksumFlagFollowsFrame
  validFrameHeld : s.ValidFrameHeld
  statusFieldsCurrent : s.StatusFieldsCurrent
  invalidFieldsZero : s.InvalidFieldsZero
  registersInRange : s.RegistersInRange
  buffersCanonical : s.BuffersCanonical

/-- The states reachable from reset, under any admissible parameters and whatever events the agents bring, and when. -/
inductive Reachable : State → Prop where
  | start (p : Params) (h : p.admissible = true) : Reachable { State.reset with params := p }
  | arrive {s : State} (es : List Input) (h : Reachable s) : Reachable (s.setPending (s.pending ++ es))
  | step {s t : State} (h : Reachable s) (hs : step s = .next t) : Reachable t

/-! ### Several instructions, one after another -/

/-- Run instructions in order, stopping where one stops. -/
def execAll : List Instr → State → Result
  | [], s => .next s
  | i :: is, s =>
    match exec i s with
    | .next t => execAll is t
    | .fault r => .fault r
    | .refused r => .refused r

/-- A byte pushed by the serial RX source (true) or by the host (false): both perform RxPush (20_memory.md R40). -/
def pushInstr : Bool × Byte → Instr
  | (true, b) => .serRx b
  | (false, b) => .wrRxData b

/-- One frame looped back byte by byte: by the host, XFER (`RD TX_DATA -> v`, then `WR RX_DATA, v`: 30_encoding.md R66),
or on the wire (true: `SER_TX -> v`, then `SER_RX v`). -/
def loopInstrs : Bool → List Byte → List Instr
  | true, vs => vs.flatMap (fun v => [.serTx, .serRx v])
  | false, vs => vs.flatMap (fun v => [.rdTxData, .wrRxData v])

/-! ### What kind of event an instruction is -/

/-- The command an instruction runs, if it is a write of one of the nine codes to CMD (30_encoding.md R60). -/
def instrCommand : Instr → Option Cmd
  | .nop => some .nop
  | .decode => some .decode
  | .decodeStatus => some .decodeStatus
  | .extract => some .extract
  | .checksum => some .checksum
  | .encodeControl => some .encodeControl
  | .encodeQuery => some .encodeQuery
  | .rxClear => some .rxClear
  | .txClear => some .txClear
  | .wr a d => if a = 0x000#10 then cmdOfCode d else none
  | .illegalCmd _ | .wrRxData _ | .rdTxData | .rd _ | .serRx _ | .serTx => none

/-- The instruction writes CMD (20_memory.md R39). -/
def instrWritesCmd : Instr → Bool
  | .nop | .decode | .decodeStatus | .extract | .checksum | .encodeControl | .encodeQuery | .rxClear | .txClear => true
  | .illegalCmd _ => true
  | .wr a _ => a == 0x000#10
  | .wrRxData _ | .rdTxData | .rd _ | .serRx _ | .serTx => false

/-- The byte an instruction pushes into the read (40_frame_receive.md R67, 20_memory.md R40). -/
def pushedByte : Instr → Option Byte
  | .wrRxData b | .serRx b => some b
  | .wr a d => if a = 0x00D#10 then some d else none
  | .nop | .decode | .decodeStatus | .extract | .checksum | .encodeControl | .encodeQuery | .rxClear | .txClear => none
  | .illegalCmd _ | .rdTxData | .rd _ | .serTx => none

/-- The bytes pushed by a sequence of instructions, in order: S of 40_frame_receive.md R69. -/
def pushedBytes (is : List Instr) : List Byte := is.filterMap pushedByte

/-! ### The source's decode -/

/-- The source's `decode(S)` over a whole byte sequence, as 40_frame_receive.md R69 maps its outcomes to codes: the first
two bytes are the marker, the length is the shape of the type byte, the last byte is the checksum of those before it. -/
def sourceDecode (f : List Byte → Byte) (S : List Byte) : ErrCode :=
  if S.take 2 ≠ [0x7E#8, 0x7E#8] then .badMarker
  else
    match S[2]? with
    | none => .badLength
    | some ty =>
      if S.length ≠ (shape ty).toNat then .badLength
      else if S.getLast? ≠ some (f S.dropLast) then .checksumMismatch
      else .ok

end Sys2Proof.Machine
end

