-- ==== Sys2Proof/Certificates/Slice0/Obligations.lean ====
section
/-! DEFINITION. The statements for the provers. -/

open Sys2Proof Sys2Proof.Machine

/-! ### Encodings (30_encoding.md) -/

/-- Every well-formed instruction, with every operand at every value its row admits, is what the decoder reads from its
encoding. -/
def Obligations.DecodeEncodeRoundTrip : Prop := ∀ i : Instr, i.wf = true → decode (encode i) = .instr i

/-- The other direction: what the decoder accepts is well-formed, and is the encoding of what it reads. -/
def Obligations.EncodeDecodeRoundTrip : Prop :=
  ∀ (p : PortItem) (i : Instr), decode p = .instr i → i.wf = true ∧ encode i = p

/-- R62: the four fields of the word, and the words the rule spells out, each decoding to the transaction it stands for. -/
def Obligations.HostWordLayout : Prop :=
  (∀ (w : Bool) (a : Addr) (d : Byte),
    (hostWord w a d).getLsbD 19 = w ∧ (hostWord w a d).getLsbD 18 = false ∧
    (hostWord w a d).extractLsb' 8 10 = a ∧ (hostWord w a d).extractLsb' 0 8 = d) ∧
  decode (.word 0x80001#20) = .instr .decode ∧
  decode (.word 0x80D7E#20) = .instr (.wrRxData 0x7E#8) ∧
  decode (.word 0x00100#20) = .instr (.rd 0x001#10) ∧
  decode (.word 0x00E00#20) = .instr .rdTxData ∧
  decode (.word 0x10000#20) = .instr (.rd 0x100#10)

/-- R63: which words are refused, under which name, and that for every word the decoder takes the first row of the opcode
table it fits, a refused word fitting none. That bit 18 is tested before DATA is the model's choice, log 17. The serial ports
carry a byte, not a word; that SER_TX brings none in, its byte being the event's result, is the model's reading, log 9. -/
def Obligations.ListingDecoderFollowsTable : Prop :=
  (∀ w : TWord,
    (w.getLsbD 18 = true → decode (.word w) = .reject .reservedBit18) ∧
    (w.getLsbD 18 = false → w.getLsbD 19 = false → w.extractLsb' 0 8 ≠ 0x00#8 →
      decode (.word w) = .reject .readWithData) ∧
    (w.getLsbD 18 = false → (w.getLsbD 19 = true ∨ w.extractLsb' 0 8 = 0x00#8) →
      ∃ i, decode (.word w) = .instr i ∧ (firstRow w).map TableRow.mnemonic = some i.mnemonic) ∧
    ((∃ e, decode (.word w) = .reject e) → firstRow w = none)) ∧
  (∀ b : Byte, decode (.rxByte b) = .instr (.serRx b)) ∧ decode .txTake = .instr .serTx

/-- R60 and R61: the nine codes and their commands; the other 247 are ILLEGAL_CMD, which sets ERR to 0x09 and changes
nothing else. -/
def Obligations.CommandCodes : Prop :=
  decode (.word 0x80000#20) = .instr .nop ∧
  decode (.word 0x80001#20) = .instr .decode ∧
  decode (.word 0x80002#20) = .instr .decodeStatus ∧
  decode (.word 0x80003#20) = .instr .extract ∧
  decode (.word 0x80004#20) = .instr .checksum ∧
  decode (.word 0x80010#20) = .instr .encodeControl ∧
  decode (.word 0x80011#20) = .instr .encodeQuery ∧
  decode (.word 0x80020#20) = .instr .rxClear ∧
  decode (.word 0x80021#20) = .instr .txClear ∧
  (∀ d : Byte, (0x05 ≤ d.toNat ∧ d.toNat ≤ 0x0F) ∨ (0x12 ≤ d.toNat ∧ d.toNat ≤ 0x1F) ∨ 0x22 ≤ d.toNat →
    decode (.word (0x80000#20 ||| d.setWidth 20)) = .instr (.illegalCmd d) ∧
    ∀ s : State, exec (.illegalCmd d) s = .next { s with err := 0x09#8 })

/-- R66: what each pseudo-instruction of a listing expands to, read back through the decoder. XFER with the bytes its reads give
is the model's form, log 15. -/
def Obligations.PseudoExpansions : Prop :=
  (∀ c, (expand (.cmd c)).map decode = [.instr c.instr]) ∧
  (∀ bs, (expand (.push bs)).map decode = bs.map (fun b => .instr (.wrRxData b))) ∧
  (∀ n, (expand (.pushz n)).map decode = List.replicate n (.instr (.wrRxData 0x00#8))) ∧
  (expand .pop).map decode = [.instr .rdTxData] ∧
  (∀ vs, (expand (.xfer vs)).map decode = (loopInstrs false vs).map .instr) ∧
  (∀ i b, i < 35 → (expand (.setpay i b)).map decode = [.instr (.wr (BitVec.ofNat 10 (0x020 + i)) b)]) ∧
  (∀ k, (expand (.rd16 k)).map decode =
    [.instr (.rd (BitVec.ofNat 10 (0x010 + 2 * FieldId.index k))),
     .instr (.rd (BitVec.ofNat 10 (0x011 + 2 * FieldId.index k)))])

/-! ### Steps and reset -/

/-- When the next event's item decodes to an instruction, the step is exec of it, with that event taken from the pending
ones; and an instruction placed by withFetchWord is the one the next step runs. The model's own are the list of pending events,
log 1, the placing, log 3, and how bits alone are read as an item: as SER_RX, log 9, or as a word in 24 bits, log 14. -/
def Obligations.StepRunsDecodedInstruction : Prop :=
  (∀ (s : State) (p : PortItem) (i : Instr) (rest : List Input),
    s.params.admissible = true → s.pending = .item p :: rest → decode p = .instr i →
    step s = exec i { s with pending := rest }) ∧
  (∀ (s : State) (nbits w : Nat) (i : Instr),
    s.params.admissible = true → decodeTableWord nbits w = some i → step (s.withFetchWord nbits w) = exec i s)

/-- When a step stops: a word that spells no transaction is refused by name, and so are parameters outside their sets,
before any event (R120, U20, U24). The model's own are the name given to a read word with both faults, log 17, when parameters
are refused, log 5, and the last clause, that with no event pending the block waits, log 2. -/
def Obligations.StepRefusesByName : Prop :=
  (∀ (s : State) (w : TWord) (rest : List Input), s.params.admissible = true → s.pending = .item (.word w) :: rest →
    (w.getLsbD 18 = true → step s = .refused .reservedBit18) ∧
    (w.getLsbD 18 = false → w.getLsbD 19 = false → w.extractLsb' 0 8 ≠ 0x00#8 → step s = .refused .readWithData)) ∧
  (∀ s : State, s.params.admissible = false → step s = .refused .inadmissibleParams) ∧
  (∀ s : State, s.params.admissible = true → s.pending = [] → step s = .next s)

/-- R121: every element at 0 after reset, STAT and EXP_LEN too, and the reset event brings every element there from any
state; the parameters, the events still to come and what was read or sent before stay (the model's own fields, log 11). -/
def Obligations.ResetSetsEveryElement : Prop :=
  (∀ (s : State) (rest : List Input), s.params.admissible = true → s.pending = .reset :: rest →
    step s = .next { State.reset with params := s.params, pending := rest, reads := s.reads, line := s.line }) ∧
  (∀ i, State.reset.rxbuf.read i = 0#8 ∧ State.reset.txbuf.read i = 0#8 ∧ State.reset.txpay.read i = 0#8) ∧
  State.reset.rxLen = 0#8 ∧ State.reset.txLen = 0#8 ∧ State.reset.txPtr = 0#8 ∧
  State.reset.rxOvf = false ∧ State.reset.frameValid = false ∧ State.reset.cksumOk = false ∧
  State.reset.statusValid = false ∧
  State.reset.frameType = 0#8 ∧ State.reset.frameSub = 0#8 ∧ State.reset.frameLen = 0#8 ∧
  State.reset.cksumCalc = 0#8 ∧ State.reset.cksumRx = 0#8 ∧ State.reset.err = 0#8 ∧
  (∀ k, State.reset.fields.get k = 0#16) ∧ State.reset.fvalid = 0#6 ∧
  State.reset.stat = 0#8 ∧ State.reset.expLen = 0#8

/-- Every address reads 0x00 right after reset (95_test_vectors.md V-R). -/
def Obligations.EveryAddressReadsZeroAfterReset : Prop :=
  ∀ a : Addr, exec (.rd a) State.reset = .next { State.reset with reads := [0x00#8] }

/-! ### Invariants (10_state.md R34) -/

/-- The reset state meets the invariant. Its clause on the buffers' canonical form is the model's own, log 12. -/
def Obligations.ResetMeetsInvariants : Prop := State.reset.Inv

/-- From every state that meets the invariant, reached by a run or not, a step leads to one that meets it. The clause on the
buffers' canonical form is the model's own, log 12. -/
def Obligations.StepKeepsInvariants : Prop := ∀ s t : State, s.Inv → step s = .next t → t.Inv

/-- R34: every reachable state meets I1 to I5; and I6, there is no converse of I4: a reachable state may hold latches with
FRAME_VALID = 0. State.Inv says more than R34: the ranges of R15, R28, the reading of D26, and the buffers' canonical form,
which is the model's own, log 12. -/
def Obligations.ReachableStatesMeetInvariants : Prop :=
  (∀ s : State, Reachable s → s.Inv) ∧
  (∃ s : State, Reachable s ∧ s.frameValid = false ∧ s.frameType ≠ 0#8 ∧ s.frameLen ≠ 0#8)

/-- The parameters never change, and an instruction leaves the events still to come alone: it always completes. For SER_TX with
nothing pending, where the sink has no step (R76, U21), that is the model's own reading, log 8; that there is no fault at all
is log 16. -/
def Obligations.EveryInstructionCompletes : Prop :=
  (∀ (i : Instr) (s : State), ∃ t, exec i s = .next t ∧ t.params = s.params ∧ t.pending = s.pending) ∧
  (∀ s t : State, step s = .next t → t.params = s.params)

/-! ### Frame receive (40_frame_receive.md) -/

/-- R67, R40: RxPush(b), by the serial RX source and by the host, below capacity and at it; nothing else changes. -/
def Obligations.RxPushEffect : Prop :=
  ∀ (s : State) (b : Byte) (i : Instr), i = .serRx b ∨ i = .wrRxData b →
    (s.rxLen.toNat < 255 → ∃ m : Memory, (∀ j, m.read j = if j = s.rxLen.toNat then b else s.rxbuf.read j) ∧
      exec i s = .next { s with frameValid := false, cksumOk := false, statusValid := false,
                                rxbuf := m, rxLen := s.rxLen + 1#8 }) ∧
    (s.rxLen = 255#8 →
      exec i s = .next { s with frameValid := false, cksumOk := false, statusValid := false, rxOvf := true })

/-- R18, R19, R20: from an empty read, whatever any agent does but RX_CLEAR, RXBUF holds the first 255 bytes pushed in order,
RX_LEN counts them, RX_OVF says whether there were more, and the bytes past them stay as they were. -/
def Obligations.ReadHoldsPushedBytes : Prop :=
  ∀ (s : State) (is : List Instr), s.rxLen = 0#8 → s.rxOvf = false → (∀ i ∈ is, instrCommand i ≠ some .rxClear) →
    ∃ t, execAll is s = .next t ∧
      t.rxLen.toNat = min (pushedBytes is).length 255 ∧
      t.rxbuf.bytes t.rxLen.toNat = (pushedBytes is).take 255 ∧
      (t.rxOvf = true ↔ 255 < (pushedBytes is).length) ∧
      (∀ j, (pushedBytes is).length ≤ j → t.rxbuf.read j = s.rxbuf.read j)

/-- R68: DECODE's word, and its four outcomes in the order of its checks; nothing but the named elements changes. -/
def Obligations.DecodeReportsFirstFailure : Prop :=
  decode (.word 0x80001#20) = .instr .decode ∧
  ∀ (s z : State) (n : Nat),
    z = { s with frameValid := false, cksumOk := false, statusValid := false, frameType := 0#8, frameSub := 0#8,
                 frameLen := 0#8, cksumCalc := 0#8, cksumRx := 0#8 } →
    n = s.rxLen.toNat →
    (n < 2 ∨ s.rxbuf.read 0 ≠ 0x7E#8 ∨ s.rxbuf.read 1 ≠ 0x7E#8 → exec .decode s = .next { z with err := 0x01#8 }) ∧
    (2 ≤ n → s.rxbuf.read 0 = 0x7E#8 → s.rxbuf.read 1 = 0x7E#8 →
      (n < 3 ∨ s.rxOvf = true ∨ shape (s.rxbuf.read 2) = 0#8 ∨ n ≠ (shape (s.rxbuf.read 2)).toNat) →
      exec .decode s = .next { z with err := 0x02#8 }) ∧
    (3 ≤ n → s.rxbuf.read 0 = 0x7E#8 → s.rxbuf.read 1 = 0x7E#8 → s.rxOvf = false →
      shape (s.rxbuf.read 2) ≠ 0#8 → n = (shape (s.rxbuf.read 2)).toNat →
      (checksumFn s.params (s.rxbuf.bytes (n - 1)) ≠ s.rxbuf.read (n - 1) →
        exec .decode s = .next { z with cksumCalc := checksumFn s.params (s.rxbuf.bytes (n - 1)),
                                        cksumRx := s.rxbuf.read (n - 1), err := 0x03#8 }) ∧
      (checksumFn s.params (s.rxbuf.bytes (n - 1)) = s.rxbuf.read (n - 1) →
        exec .decode s = .next { z with cksumCalc := checksumFn s.params (s.rxbuf.bytes (n - 1)),
                                        cksumRx := s.rxbuf.read (n - 1), cksumOk := true, frameValid := true,
                                        frameType := s.rxbuf.read 2, frameSub := s.rxbuf.read 3,
                                        frameLen := s.rxLen, err := 0x00#8 }))

/-- R55: the shape table. -/
def Obligations.ShapeTable : Prop :=
  shape 0x02#8 = 5#8 ∧ shape 0xFF#8 = 255#8 ∧ shape 0x25#8 = 40#8 ∧
  ∀ ty : Byte, ty ≠ 0x02#8 → ty ≠ 0xFF#8 → ty ≠ 0x25#8 → shape ty = 0#8

/-- R69: from an empty read, whatever any agent does but RX_CLEAR, DECODE's ERR is what the source's decode of the whole
sequence of pushed bytes returns, the bytes an overflow dropped included. -/
def Obligations.DecodeAnswersForWholeRead : Prop :=
  ∀ (s : State) (is : List Instr), s.rxLen = 0#8 → s.rxOvf = false → (∀ i ∈ is, instrCommand i ≠ some .rxClear) →
    ∃ t, execAll (is ++ [.decode]) s = .next t ∧ t.err = (sourceDecode (checksumFn s.params) (pushedBytes is)).code

/-- A second DECODE of the same read changes nothing (R68's corner case: DECODE reads the state and does not consume it). -/
def Obligations.DecodeTwiceIsDecodeOnce : Prop :=
  ∀ s t : State, exec .decode s = .next t → exec .decode t = .next t

/-- R71: DECODE_STATUS's word and its three outcomes; on success the fields are those EXTRACT would give; nothing but the
named elements changes. -/
def Obligations.DecodeStatusEffect : Prop :=
  decode (.word 0x80002#20) = .instr .decodeStatus ∧
  ∀ s : State,
    (s.frameValid = false → exec .decodeStatus s = .next { s with statusValid := false, err := 0x06#8 }) ∧
    (s.frameValid = true → (s.rxbuf.read 2 ≠ 0xFF#8 ∨ s.rxbuf.read 3 ≠ 0xE0#8) →
      exec .decodeStatus s = .next { s with statusValid := false, err := 0x04#8 }) ∧
    (s.frameValid = true → s.rxbuf.read 2 = 0xFF#8 → s.rxbuf.read 3 = 0xE0#8 →
      ∃ u, exec .extract s = .next u ∧
        exec .decodeStatus s =
          .next { s with fields := u.fields, fvalid := u.fvalid, statusValid := true, err := 0x00#8 })

/-- R72: in every state that meets the invariant, a successful DECODE_STATUS finds every field in range. -/
def Obligations.DecodeStatusFindsEveryField : Prop :=
  ∀ s : State, s.Inv → s.params.admissible = true → s.frameValid = true →
    s.rxbuf.read 2 = 0xFF#8 → s.rxbuf.read 3 = 0xE0#8 →
    s.rxLen = 255#8 ∧ ∃ t, exec .decodeStatus s = .next t ∧ t.fvalid = 0b111111#6 ∧ t.err = 0x00#8 ∧ t.statusValid = true

/-- R73: two successful DECODE_STATUS, or two EXTRACT, with no push and no RX_CLEAR between them, write the same fields; and
the fields are a function of the read's bytes and the parameters alone. -/
def Obligations.FieldsDependOnReadAlone : Prop :=
  (∀ (i : Instr) (between : List Instr) (s t u v : State),
    (∀ j ∈ between, pushedByte j = none ∧ instrCommand j ≠ some .rxClear) →
    exec i s = .next t → execAll between t = .next u → exec i u = .next v →
    i = .extract ∨ (i = .decodeStatus ∧ t.statusValid = true ∧ v.statusValid = true) →
    v.fields = t.fields ∧ v.fvalid = t.fvalid) ∧
  (∀ s s' t t' : State, s.params = s'.params → s.rxLen = s'.rxLen →
    (∀ j, j < s.rxLen.toNat → s.rxbuf.read j = s'.rxbuf.read j) →
    exec .extract s = .next t → exec .extract s' = .next t' → t.fields = t'.fields ∧ t.fvalid = t'.fvalid)

/-- R126: a push between DECODE and DECODE_STATUS makes DECODE_STATUS report NO_FRAME; a push after it clears STATUS_VALID
and leaves the field registers. -/
def Obligations.PushInvalidatesDecodedFrame : Prop :=
  ∀ (s : State) (e : Bool × Byte),
    ∃ t u, exec (pushInstr e) s = .next t ∧
      t.frameValid = false ∧ t.statusValid = false ∧ t.fields = s.fields ∧ t.fvalid = s.fvalid ∧
      exec .decodeStatus t = .next u ∧ u.err = 0x06#8 ∧ u.statusValid = false ∧
      u.fields = s.fields ∧ u.fvalid = s.fvalid

/-! ### Field decoder (42_field_decoder.md) -/

/-- R91, R92: EXTRACT's word, and for each field whether it is in range and what is written; ERR; nothing else changes. -/
def Obligations.ExtractEffect : Prop :=
  decode (.word 0x80003#20) = .instr .extract ∧
  ∀ (s : State) (B n : Nat), B = s.params.fieldBase → n = s.rxLen.toNat →
    ∃ (f : Fields) (v : BitVec 6),
      exec .extract s = .next { s with statusValid := false, fields := f, fvalid := v,
                                       err := if B + 65 ≤ n then 0x00#8 else 0x05#8 } ∧
      v.getLsbD 0 = decide (B + 17 ≤ n) ∧
      f.vp = (if B + 17 ≤ n then (s.rxbuf.read (B + 16)).setWidth 16 else 0#16) ∧
      v.getLsbD 1 = decide (B + 62 ≤ n) ∧
      f.lp = (if B + 62 ≤ n then
        (s.rxbuf.read (B + 60)).setWidth 16 + 256#16 * (s.rxbuf.read (B + 61)).setWidth 16 else 0#16) ∧
      v.getLsbD 2 = decide (B + 23 ≤ n) ∧
      f.vt = (if B + 23 ≤ n then (s.rxbuf.read (B + 22)).setWidth 16 else 0#16) ∧
      v.getLsbD 3 = decide (B + 57 ≤ n) ∧
      f.lt = (if B + 57 ≤ n then (s.rxbuf.read (B + 56)).setWidth 16 else 0#16) ∧
      v.getLsbD 4 = decide (B + 26 ≤ n) ∧
      f.oct = (if B + 26 ≤ n then (s.rxbuf.read (B + 25)).setWidth 16 - 16#16 else 0#16) ∧
      v.getLsbD 5 = decide (B + 65 ≤ n) ∧
      f.ihx = (if B + 65 ≤ n then (s.rxbuf.read (B + 64)).setWidth 16 - BitVec.ofNat 16 s.params.ihxOffset else 0#16)

/-- R85 to R90: with every field in range, the quantity each register stands for, in its unit, from the raw bytes; no value
is clamped. -/
def Obligations.FieldQuantities : Prop :=
  ∀ (s : State) (B : Nat), s.params.admissible = true → B = s.params.fieldBase → B + 65 ≤ s.rxLen.toNat →
    ∃ t, exec .extract s = .next t ∧ t.fvalid = 0b111111#6 ∧
      fieldQuantity s.params t.fields.vp .vp = ((s.rxbuf.read (B + 16)).toNat : Rat) / 10 ∧
      fieldQuantity s.params t.fields.lp .lp =
        (((s.rxbuf.read (B + 60)).toNat + 256 * (s.rxbuf.read (B + 61)).toNat : Nat) : Rat) / (s.params.liqPDiv : Rat) ∧
      fieldQuantity s.params t.fields.vt .vt = ((s.rxbuf.read (B + 22)).toNat : Rat) ∧
      t.fields.lt = (s.rxbuf.read (B + 56)).setWidth 16 ∧
      fieldQuantity s.params t.fields.lt .lt = Config.liqTScale (s.rxbuf.read (B + 56)) ∧
      fieldQuantity s.params t.fields.oct .oct = ((s.rxbuf.read (B + 25)).toNat : Rat) - 16 ∧
      fieldQuantity s.params t.fields.ihx .ihx = ((s.rxbuf.read (B + 64)).toNat : Rat) - (s.params.ihxOffset : Rat)

/-- R94: a read truncated before offset 64 gives every field but IHX. -/
def Obligations.TruncationBoundary : Prop :=
  ∀ s : State, s.params.admissible = true → s.rxLen.toNat = s.params.fieldBase + 64 →
    ∃ t, exec .extract s = .next t ∧ t.fvalid = 0b011111#6 ∧ t.err = 0x05#8 ∧ t.fields.ihx = 0#16 ∧
      t.fields.vp = (s.rxbuf.read (s.params.fieldBase + 16)).setWidth 16

/-! ### Checksum (43_checksum.md) -/

/-- R101: CHECKSUM's word, an overflowed read, and any other; nothing but CKSUM_CALC and ERR changes. -/
def Obligations.ChecksumEffect : Prop :=
  decode (.word 0x80004#20) = .instr .checksum ∧
  ∀ s : State,
    (s.rxOvf = true → exec .checksum s = .next { s with cksumCalc := 0#8, err := 0x08#8 }) ∧
    (s.rxOvf = false →
      exec .checksum s =
        .next { s with cksumCalc := checksumFn s.params (s.rxbuf.bytes s.rxLen.toNat), err := 0x00#8 })

/-- The constraint of R98, met under every value of the parameter. -/
def Obligations.ChecksumOfQueryHead : Prop :=
  ∀ p : Params, checksumFn p [0x7E#8, 0x7E#8, 0x02#8, 0x02#8] = 0x04#8

/-- R97: the default is the sum of the bytes after the marker with carries discarded, byte by byte, 0 up to two bytes. -/
def Obligations.DefaultChecksumAccumulates : Prop :=
  ∀ p : Params, p.checksum = .sum8 →
    (∀ bs : List Byte, bs.length ≤ 2 → checksumFn p bs = 0#8) ∧
    (∀ (bs : List Byte) (b : Byte), 2 ≤ bs.length → checksumFn p (bs ++ [b]) = checksumFn p bs + b)

/-- R99: only DECODE ever sets FRAME_VALID, and never without verify; the two compared bytes are recorded. -/
def Obligations.NoFrameAcceptedUnverified : Prop :=
  ∀ (i : Instr) (s t : State), exec i s = .next t → s.frameValid = false → t.frameValid = true →
    instrCommand i = some .decode ∧ t.cksumOk = true ∧ 4 ≤ t.rxLen.toNat ∧
    t.cksumCalc = checksumFn t.params (t.rxbuf.bytes (t.rxLen.toNat - 1)) ∧
    t.cksumRx = t.rxbuf.read (t.rxLen.toNat - 1) ∧ t.cksumCalc = t.cksumRx

/-! ### Frame transmit (41_frame_transmit.md) -/

/-- R74: ENCODE_CONTROL's word, TX_BUSY, and the 40 bytes of the frame; nothing but the named elements changes. -/
def Obligations.EncodeControlEffect : Prop :=
  decode (.word 0x80010#20) = .instr .encodeControl ∧
  ∀ s : State,
    (s.txPtr.toNat < s.txLen.toNat → exec .encodeControl s = .next { s with err := 0x07#8 }) ∧
    (s.txLen.toNat ≤ s.txPtr.toNat → ∃ m : Memory,
      exec .encodeControl s = .next { s with txbuf := m, txLen := 40#8, txPtr := 0#8, err := 0x00#8 } ∧
      m.read 0 = 0x7E#8 ∧ m.read 1 = 0x7E#8 ∧ m.read 2 = 0x25#8 ∧ m.read 3 = 0x01#8 ∧
      (∀ i, i < 35 → m.read (4 + i) = s.txpay.read i) ∧
      m.read 39 = checksumFn s.params (m.bytes 39) ∧
      (∀ i, 40 ≤ i → m.read i = s.txbuf.read i))

/-- R75: ENCODE_QUERY's word, TX_BUSY, and the 5 bytes of the frame, its checksum 0x04 under every parameter; TXBUF[5..39]
and everything else stay. -/
def Obligations.EncodeQueryEffect : Prop :=
  decode (.word 0x80011#20) = .instr .encodeQuery ∧
  ∀ s : State,
    (s.txPtr.toNat < s.txLen.toNat → exec .encodeQuery s = .next { s with err := 0x07#8 }) ∧
    (s.txLen.toNat ≤ s.txPtr.toNat → ∃ m : Memory,
      exec .encodeQuery s = .next { s with txbuf := m, txLen := 5#8, txPtr := 0#8, err := 0x00#8 } ∧
      m.bytes 5 = [0x7E#8, 0x7E#8, 0x02#8, 0x02#8, 0x04#8] ∧
      (∀ i, 5 ≤ i → m.read i = s.txbuf.read i))

/-- R41, and R76's pop: by the serial TX sink and by the host, which with nothing pending reads 0x00. The lists that show the
byte, reads and line, are the model's own, log 10. -/
def Obligations.TxPopEffect : Prop :=
  ∀ s : State,
    (s.txPtr.toNat < s.txLen.toNat →
      exec .serTx s = .next { s with txPtr := s.txPtr + 1#8, line := s.line ++ [s.txbuf.read s.txPtr.toNat] } ∧
      exec .rdTxData s = .next { s with txPtr := s.txPtr + 1#8, reads := s.reads ++ [s.txbuf.read s.txPtr.toNat] }) ∧
    (s.txLen.toNat ≤ s.txPtr.toNat → exec .rdTxData s = .next { s with reads := s.reads ++ [0x00#8] })

/-- With nothing pending the serial TX sink has no step (R76, D30). That its turn in the total order then passes with no
effect is the model's own reading, log 8. -/
def Obligations.SinkTurnPassesWithNothingPending : Prop :=
  ∀ s : State, s.txLen.toNat ≤ s.txPtr.toNat → exec .serTx s = .next s

/-- R77: a frame built by ENCODE_CONTROL or ENCODE_QUERY and looped back into an empty read, by the host or on the wire,
decodes to itself, whatever TXPAY and the checksum function; the bytes looped are the bytes read, or taken from the line. -/
def Obligations.LoopbackRoundTrip : Prop :=
  ∀ (s : State) (wire : Bool), s.txLen.toNat ≤ s.txPtr.toNat → s.rxLen = 0#8 → s.rxOvf = false →
    (∃ u t, exec .encodeControl s = .next u ∧
      execAll (loopInstrs wire (u.txbuf.bytes 40) ++ [.decode]) u = .next t ∧
      t.line = s.line ++ (if wire then u.txbuf.bytes 40 else []) ∧
      t.reads = s.reads ++ (if wire then [] else u.txbuf.bytes 40) ∧
      t.err = 0x00#8 ∧ t.frameValid = true ∧ t.frameType = 0x25#8 ∧ t.frameSub = 0x01#8 ∧ t.frameLen = 40#8 ∧
      (∀ i, i < 35 → t.rxbuf.read (4 + i) = s.txpay.read i)) ∧
    (∃ u t, exec .encodeQuery s = .next u ∧
      execAll (loopInstrs wire (u.txbuf.bytes 5) ++ [.decode]) u = .next t ∧
      t.line = s.line ++ (if wire then u.txbuf.bytes 5 else []) ∧
      t.reads = s.reads ++ (if wire then [] else u.txbuf.bytes 5) ∧
      t.err = 0x00#8 ∧ t.frameValid = true ∧ t.frameType = 0x02#8 ∧ t.frameSub = 0x02#8 ∧ t.frameLen = 5#8)

/-- After ENCODE_CONTROL, forty turns of the sink put the frame on the line, in order, and leave nothing pending. -/
def Obligations.ControlFrameGoesOutWhole : Prop :=
  ∀ s : State, s.txLen.toNat ≤ s.txPtr.toNat →
    ∃ u t, exec .encodeControl s = .next u ∧ execAll (List.replicate 40 .serTx) u = .next t ∧
      t.line = s.line ++ [0x7E#8, 0x7E#8, 0x25#8, 0x01#8] ++ s.txpay.bytes 35 ++
        [checksumFn s.params ([0x7E#8, 0x7E#8, 0x25#8, 0x01#8] ++ s.txpay.bytes 35)] ∧
      t.txPtr = 40#8 ∧ t.txLen = 40#8

/-! ### Buffer control (44_buffer_control.md) -/

/-- R102: NOP's word, and that it does nothing at all. -/
def Obligations.NopEffect : Prop := decode (.word 0x80000#20) = .instr .nop ∧ ∀ s : State, exec .nop s = .next s

/-- R103: RX_CLEAR's word and what it writes; RXBUF, the latches, the checksum bytes and the fields stay. -/
def Obligations.RxClearEffect : Prop :=
  decode (.word 0x80020#20) = .instr .rxClear ∧
  ∀ s : State, exec .rxClear s = .next { s with rxLen := 0#8, rxOvf := false, frameValid := false, cksumOk := false,
                                                statusValid := false, err := 0x00#8 }

/-- R104: TX_CLEAR's word and what it writes; TXBUF and TXPAY stay; afterwards an ENCODE is not refused. -/
def Obligations.TxClearEffect : Prop :=
  decode (.word 0x80021#20) = .instr .txClear ∧
  ∀ s : State, ∃ t, t = { s with txLen := 0#8, txPtr := 0#8, err := 0x00#8 } ∧ exec .txClear s = .next t ∧
    t.stat.getLsbD 5 = false ∧
    (∃ u, exec .encodeControl t = .next u ∧ u.err = 0x00#8) ∧ (∃ u, exec .encodeQuery t = .next u ∧ u.err = 0x00#8)

/-! ### Host access (20_memory.md) -/

/-- R36, R37: what a read of every address returns; only a read of TX_DATA changes the block. -/
def Obligations.RegisterMapReads : Prop :=
  ∀ (s : State) (gives : Addr → Byte → Prop),
    (∀ a v, gives a v ↔ exec (.rd a) s = .next { s with reads := s.reads ++ [v] }) →
    gives 0x000#10 0x00#8 ∧ gives 0x001#10 s.err ∧ gives 0x002#10 s.stat ∧ gives 0x003#10 s.rxLen ∧
    gives 0x004#10 s.expLen ∧ gives 0x005#10 s.frameType ∧ gives 0x006#10 s.frameSub ∧ gives 0x007#10 s.frameLen ∧
    gives 0x008#10 s.cksumCalc ∧ gives 0x009#10 s.cksumRx ∧ gives 0x00A#10 (0b00#2 ++ s.fvalid) ∧
    gives 0x00B#10 s.txLen ∧ gives 0x00C#10 s.txPtr ∧ gives 0x00D#10 0x00#8 ∧
    exec (.rd 0x00E#10) s = exec .rdTxData s ∧
    gives 0x010#10 (s.fields.vp.extractLsb' 0 8) ∧ gives 0x011#10 (s.fields.vp.extractLsb' 8 8) ∧
    gives 0x012#10 (s.fields.lp.extractLsb' 0 8) ∧ gives 0x013#10 (s.fields.lp.extractLsb' 8 8) ∧
    gives 0x014#10 (s.fields.vt.extractLsb' 0 8) ∧ gives 0x015#10 (s.fields.vt.extractLsb' 8 8) ∧
    gives 0x016#10 (s.fields.lt.extractLsb' 0 8) ∧ gives 0x017#10 (s.fields.lt.extractLsb' 8 8) ∧
    gives 0x018#10 (s.fields.oct.extractLsb' 0 8) ∧ gives 0x019#10 (s.fields.oct.extractLsb' 8 8) ∧
    gives 0x01A#10 (s.fields.ihx.extractLsb' 0 8) ∧ gives 0x01B#10 (s.fields.ihx.extractLsb' 8 8) ∧
    (∀ i, i < 35 → gives (BitVec.ofNat 10 (0x020 + i)) (s.txpay.read i)) ∧
    (∀ i, i < 255 → gives (BitVec.ofNat 10 (0x100 + i)) (s.rxbuf.read i)) ∧
    (∀ i, i < 40 → gives (BitVec.ofNat 10 (0x200 + i)) (s.txbuf.read i)) ∧
    (∀ a : Addr, a.toNat = 0x00F ∨ (0x01C ≤ a.toNat ∧ a.toNat ≤ 0x01F) ∨ (0x043 ≤ a.toNat ∧ a.toNat ≤ 0x0FF) ∨
      a.toNat = 0x1FF ∨ 0x228 ≤ a.toNat → gives a 0x00#8)

/-- R38: a host write of TXPAY stores the byte and changes no other; a write of CMD runs the command, of RX_DATA pushes; a
write of any read-only or reserved address has no effect. -/
def Obligations.HostWriteEffect : Prop :=
  ∀ (s : State) (a : Addr) (d : Byte),
    (a = 0x000#10 → exec (.wr a d) s = exec (decodeCode d) s) ∧
    (a = 0x00D#10 → exec (.wr a d) s = exec (.wrRxData d) s) ∧
    (0x020 ≤ a.toNat → a.toNat ≤ 0x042 → ∃ m : Memory, exec (.wr a d) s = .next { s with txpay := m } ∧
      ∀ j, m.read j = if j = a.toNat - 0x020 then d else s.txpay.read j) ∧
    (a ≠ 0x000#10 → a ≠ 0x00D#10 → ¬ (0x020 ≤ a.toNat ∧ a.toNat ≤ 0x042) → exec (.wr a d) s = .next s)

/-- The rows of the opcode table agree with the two transactions they stand for: whichever row a word takes, running it is
HostWrite (R38) or HostRead (R37) of the word's own address and data. -/
def Obligations.RowsAgreeWithTransactions : Prop :=
  ∀ (w : TWord) (i : Instr) (s : State), decode (.word w) = .instr i →
    (w.getLsbD 19 = true → exec i s = exec (.wr (w.extractLsb' 8 10) (w.extractLsb' 0 8)) s) ∧
    (w.getLsbD 19 = false → exec i s = exec (.rd (w.extractLsb' 8 10)) s)

/-- R42: the LO read, anything but a write of CMD by any agent, then the HI read, give the one value of the field. -/
def Obligations.FieldReadInTwoBytes : Prop :=
  ∀ (s : State) (k : FieldId) (between : List Instr), (∀ i ∈ between, instrWritesCmd i = false) →
    ∃ (t : State) (lo hi : Byte) (others : List Byte),
      execAll (.rd (BitVec.ofNat 10 (0x010 + 2 * FieldId.index k)) :: between ++
        [.rd (BitVec.ofNat 10 (0x011 + 2 * FieldId.index k))]) s = .next t ∧
      t.reads = s.reads ++ [lo] ++ others ++ [hi] ∧ hi ++ lo = s.fields.get k ∧ t.fields = s.fields

/-- R32, R33: the derived values and the STAT byte, bit by bit. -/
def Obligations.StatusByteBits : Prop :=
  ∀ s : State,
    s.expLen = (if 3 ≤ s.rxLen.toNat ∧ s.rxbuf.read 0 = 0x7E#8 ∧ s.rxbuf.read 1 = 0x7E#8 then shape (s.rxbuf.read 2)
      else 0#8) ∧
    s.stat.getLsbD 0 = s.frameValid ∧ s.stat.getLsbD 1 = s.cksumOk ∧ s.stat.getLsbD 2 = s.statusValid ∧
    s.stat.getLsbD 3 = s.rxOvf ∧
    s.stat.getLsbD 4 = decide (s.expLen ≠ 0#8 ∧ s.rxLen = s.expLen ∧ s.rxOvf = false) ∧
    s.stat.getLsbD 5 = decide (s.txPtr.toNat < s.txLen.toNat) ∧
    s.stat.getLsbD 6 = false ∧ s.stat.getLsbD 7 = false

/-! ### Whole-machine rules -/

/-- R26: a command other than NOP leaves one of the ten codes in ERR; NOP and everything that is no write of CMD leave ERR
alone. -/
def Obligations.OnlyCommandsWriteErr : Prop :=
  ∀ (i : Instr) (s t : State), exec i s = .next t →
    (instrWritesCmd i = false ∨ instrCommand i = some .nop → t.err = s.err) ∧
    (instrWritesCmd i = true → instrCommand i ≠ some .nop → ∃ e : ErrCode, t.err = e.code)

/-- Who writes what: FIELD and FVALID only EXTRACT and DECODE_STATUS (R93), the latches and CKSUM_RX only DECODE (R24), RXBUF
only a push (R18), TXBUF only the two ENCODE commands (R30), TXPAY only a host write in its window (R16, R29). -/
def Obligations.OnlyTheNamedOperationsWrite : Prop :=
  ∀ (i : Instr) (s t : State), exec i s = .next t →
    (t.fields ≠ s.fields ∨ t.fvalid ≠ s.fvalid →
      instrCommand i = some .extract ∨ instrCommand i = some .decodeStatus) ∧
    (t.frameType ≠ s.frameType ∨ t.frameSub ≠ s.frameSub ∨ t.frameLen ≠ s.frameLen ∨ t.cksumRx ≠ s.cksumRx →
      instrCommand i = some .decode) ∧
    (t.rxbuf ≠ s.rxbuf → (pushedByte i).isSome = true) ∧
    (t.txbuf ≠ s.txbuf → instrCommand i = some .encodeControl ∨ instrCommand i = some .encodeQuery) ∧
    (t.txpay ≠ s.txpay → ∃ a d, i = .wr a d ∧ 0x020 ≤ a.toNat ∧ a.toNat ≤ 0x042)

/-- Every element of R15 is readable: two states with canonical buffers (the form is the model's own, log 12) in which every
address but TX_DATA reads the same agree in every element of the block's state. -/
def Obligations.EveryElementIsReadable : Prop :=
  ∀ s t : State, s.BuffersCanonical → t.BuffersCanonical →
    (∀ a : Addr, a ≠ 0x00E#10 → ∃ v, exec (.rd a) s = .next { s with reads := s.reads ++ [v] } ∧
      exec (.rd a) t = .next { t with reads := t.reads ++ [v] }) →
    s = { t with params := s.params, pending := s.pending, reads := s.reads, line := s.line }

/-- A byte delivered by the serial RX source and a turn of the serial TX sink may fall in either order: the two sides of the
block do not meet. With nothing pending, where the sink has no step (R76), its turn passes by the model's own reading, log 8. -/
def Obligations.SerialEventsCommute : Prop :=
  ∀ (s : State) (b : Byte), execAll [.serRx b, .serTx] s = execAll [.serTx, .serRx b] s
end

