-- ==== Sys2Proof/Laws/Decode.lean ====
section
/-! SUPPORT. What the encoder's words hold in each field, what the code tables say to each other, and how the decoder
answers for a word given by its fields. -/

namespace Sys2Proof

theorem TWord.getLsbD_hostWord (w : Bool) (a : Addr) (d : Byte) (i : Nat) :
    (hostWord w a d).getLsbD i =
      (decide (i < 20) && ((decide (i = 19) && w) || (decide (8 ≤ i) && a.getLsbD (i - 8)) || d.getLsbD i)) := by
  unfold hostWord
  simp only [BitVec.getLsbD_or, BitVec.getLsbD_shiftLeft, BitVec.getLsbD_setWidth, BitVec.getLsbD_ofBool]
  by_cases h20 : i < 20
  · by_cases h19 : i < 19
    · have h : i ≠ 19 := by omega
      by_cases h8 : i < 8
      · have h8' : ¬ 8 ≤ i := by omega
        simp [h20, h19, h, h8, h8']
      · have h8' : 8 ≤ i := by omega
        have : i - 8 < 20 := by omega
        simp [h20, h19, h, h8, h8', this]
    · have h : i = 19 := by omega
      subst h; simp
  · simp [h20]

@[simp] theorem TWord.isWrite_hostWord (w : Bool) (a : Addr) (d : Byte) : TWord.isWrite (hostWord w a d) = w := by
  simp [-BitVec.getLsbD_eq_getElem, TWord.isWrite, TWord.getLsbD_hostWord]

@[simp] theorem TWord.reserved_hostWord (w : Bool) (a : Addr) (d : Byte) :
    TWord.reserved (hostWord w a d) = false := by
  simp [-BitVec.getLsbD_eq_getElem, TWord.reserved, TWord.getLsbD_hostWord]

@[simp] theorem TWord.addr_hostWord (w : Bool) (a : Addr) (d : Byte) : TWord.addr (hostWord w a d) = a := by
  apply BitVec.eq_of_getLsbD_eq
  intro i hi
  have h1 : 8 + i < 20 := by omega
  have h2 : 8 + i ≠ 19 := by omega
  simp [-BitVec.getLsbD_eq_getElem, TWord.addr, TWord.getLsbD_hostWord, hi, h1, h2]

@[simp] theorem TWord.data_hostWord (w : Bool) (a : Addr) (d : Byte) : TWord.data (hostWord w a d) = d := by
  apply BitVec.eq_of_getLsbD_eq
  intro i hi
  have h1 : i < 20 := by omega
  have h2 : i ≠ 19 := by omega
  have h3 : ¬ 8 ≤ i := by omega
  simp [-BitVec.getLsbD_eq_getElem, TWord.data, TWord.getLsbD_hostWord, hi, h1, h2, h3]

/-- A word with bit 18 clear is given by its three fields. -/
theorem TWord.eq_hostWord {w : TWord} (h : TWord.reserved w = false) :
    hostWord (TWord.isWrite w) (TWord.addr w) (TWord.data w) = w := by
  apply BitVec.eq_of_getLsbD_eq
  intro i hi
  rw [TWord.getLsbD_hostWord]
  unfold TWord.reserved at h
  by_cases h8 : i < 8
  · have : i ≠ 19 := by omega
    have h8' : ¬ 8 ≤ i := by omega
    simp [-BitVec.getLsbD_eq_getElem, TWord.data, hi, h8, h8', this]
  · by_cases h18 : i < 18
    · have h1 : i ≠ 19 := by omega
      have h2 : i - 8 < 10 := by omega
      have h3 : 8 ≤ i := by omega
      have h4 : 8 + (i - 8) = i := by omega
      simp [-BitVec.getLsbD_eq_getElem, TWord.data, TWord.addr, hi, h1, h2, h3, h4]
    · rcases (show i = 18 ∨ i = 19 by omega) with rfl | rfl
      · simp [-BitVec.getLsbD_eq_getElem, TWord.data, TWord.addr, h]
      · simp [-BitVec.getLsbD_eq_getElem, TWord.data, TWord.addr, TWord.isWrite]

/-- Every word is its three fields, but for the reserved bit. -/
theorem TWord.cases_hostWord (w : TWord) : TWord.reserved w = true ∨ ∃ wr a d, w = hostWord wr a d := by
  by_cases h : TWord.reserved w = true
  · exact .inl h
  · exact .inr ⟨_, _, _, (TWord.eq_hostWord (by simpa using h)).symm⟩

/-- The words are told apart by their fields. -/
theorem TWord.hostWord_inj {w w' : Bool} {a a' : Addr} {d d' : Byte} :
    hostWord w a d = hostWord w' a' d' ↔ w = w' ∧ a = a' ∧ d = d' := by
  refine ⟨fun h => ⟨?_, ?_, ?_⟩, fun ⟨h1, h2, h3⟩ => by rw [h1, h2, h3]⟩
  · simpa using congrArg TWord.isWrite h
  · simpa using congrArg TWord.addr h
  · simpa using congrArg TWord.data h

/-! ### The masks of the opcode table -/

theorem TWord.mask_all (w : TWord) : w &&& 0xFFFFF#20 = w := by
  have : (0xFFFFF#20) = BitVec.allOnes 20 := by decide
  rw [this, BitVec.and_allOnes]

theorem TWord.mask_addr (w : Bool) (a : Addr) (d : Byte) : hostWord w a d &&& 0xFFF00#20 = hostWord w a 0x00#8 := by
  apply BitVec.eq_of_getLsbD_eq
  intro i hi
  rw [BitVec.getLsbD_and, TWord.getLsbD_hostWord, TWord.getLsbD_hostWord]
  interval_cases i <;> simp

theorem TWord.mask_write (w : Bool) (a : Addr) (d : Byte) :
    hostWord w a d &&& 0xC0000#20 = hostWord w 0x000#10 0x00#8 := by
  apply BitVec.eq_of_getLsbD_eq
  intro i hi
  rw [BitVec.getLsbD_and, TWord.getLsbD_hostWord, TWord.getLsbD_hostWord]
  interval_cases i <;> simp

theorem TWord.mask_read (w : Bool) (a : Addr) (d : Byte) : hostWord w a d &&& 0xC00FF#20 = hostWord w 0x000#10 d := by
  apply BitVec.eq_of_getLsbD_eq
  intro i hi
  rw [BitVec.getLsbD_and, TWord.getLsbD_hostWord, TWord.getLsbD_hostWord]
  interval_cases i <;> simp

/-! ### The code tables -/

@[simp] theorem cmdOfCode_code (c : Cmd) : cmdOfCode c.code = some c := by cases c <;> decide

theorem code_of_cmdOfCode {d : Byte} {c : Cmd} (h : cmdOfCode d = some c) : c.code = d := by
  unfold cmdOfCode at h
  repeat' split at h
  all_goals first
    | (injection h with h; subst h; simp_all [Cmd.code])
    | cases h

theorem cmdOfCode_eq_none {d : Byte} : cmdOfCode d = none ↔ legalCodes.contains d = false := by
  unfold cmdOfCode legalCodes
  repeat' split
  all_goals simp_all

/-! ### The decoder on a word given by its fields -/

theorem decodeWord_hostWord (w : Bool) (a : Addr) (d : Byte) :
    decodeWord (hostWord w a d) =
      if w then
        if a = 0x000#10 then .instr (decodeCode d)
        else if a = 0x00D#10 then .instr (.wrRxData d)
        else .instr (.wr a d)
      else if d ≠ 0x00#8 then .reject .readWithData
      else if a = 0x00E#10 then .instr .rdTxData
      else .instr (.rd a) := by
  simp [decodeWord]

theorem decodeWord_reserved {w : TWord} (h : TWord.reserved w = true) : decodeWord w = .reject .reservedBit18 := by
  simp [decodeWord, h]

/-- A word is refused only for bit 18, or as a read that carries data. -/
theorem decodeWord_reject {w : TWord} {e : DecodeError} (h : decodeWord w = .reject e) :
    TWord.reserved w = true ∨ ∃ a d, w = hostWord false a d ∧ d ≠ 0x00#8 := by
  rcases TWord.cases_hostWord w with hr | ⟨wr, a, d, rfl⟩
  · exact .inl hr
  · rw [decodeWord_hostWord] at h
    cases wr with
    | true => split_ifs at h ; simp_all
    | false =>
      by_cases hd : d = 0x00#8
      · simp [hd] at h; split_ifs at h
      · exact .inr ⟨a, d, rfl, hd⟩

theorem decodeCode_code (c : Cmd) : decodeCode c.code = c.instr := by simp [decodeCode]

theorem decodeCode_illegal {d : Byte} (h : legalCodes.contains d = false) : decodeCode d = .illegalCmd d := by
  simp [decodeCode, cmdOfCode_eq_none.mpr h]

end Sys2Proof
end

