-- ==== Sys2Proof/Laws/Memory.lean ====
section
/-! SUPPORT. The laws of the byte buffers: what a read gives after a write, that every operation keeps the canonical form
and the buffer's size, and that a canonical buffer is determined by what it reads as. -/

namespace Sys2Proof.Machine

@[simp] theorem Memory.read_nil (i : Nat) : Memory.read [] i = 0#8 := rfl

theorem Memory.read_cons (k : Nat) (b : Byte) (m : Memory) (i : Nat) :
    Memory.read ((k, b) :: m) i = if k = i then b else Memory.read m i := rfl

/-! ### Read after write -/

theorem Memory.read_erase (m : Memory) (i j : Nat) :
    (m.erase i).read j = if j = i then Memory.unlisted else m.read j := by
  induction m with
  | nil => simp [Memory.erase, Memory.unlisted]
  | cons c m ih =>
    obtain ⟨k, b⟩ := c
    have hcons : Memory.erase ((k, b) :: m) i = if k = i then Memory.erase m i else (k, b) :: Memory.erase m i := by
      by_cases h : k = i <;> simp [Memory.erase, h]
    rw [hcons, Memory.read_cons]
    by_cases hki : k = i
    · rw [if_pos hki, ih]
      by_cases hji : j = i
      · simp [hji]
      · have : k ≠ j := by omega
        simp [hji, this]
    · rw [if_neg hki, Memory.read_cons, ih]
      by_cases hji : j = i
      · have : k ≠ j := by omega
        simp [hji, hki]
      · simp [hji]

theorem Memory.read_insert_self {m : Memory} {i : Nat} (b : Byte) (h : ∀ c ∈ m, c.1 ≠ i) :
    (m.insert i b).read i = b := by
  induction m with
  | nil => simp [Memory.insert, Memory.read_cons]
  | cons c m ih =>
    obtain ⟨k, d⟩ := c
    have hki : k ≠ i := h (k, d) (by simp)
    by_cases hk : k < i
    · simp only [Memory.insert, if_pos hk, Memory.read_cons, if_neg hki]
      exact ih (fun c hc => h c (List.mem_cons_of_mem _ hc))
    · simp [Memory.insert, hk, Memory.read_cons]

theorem Memory.read_insert_other (m : Memory) {i j : Nat} (b : Byte) (hji : j ≠ i) :
    (m.insert i b).read j = m.read j := by
  induction m with
  | nil => simp [Memory.insert, Memory.read_cons, Ne.symm hji]
  | cons c m ih =>
    obtain ⟨k, d⟩ := c
    by_cases hk : k < i
    · simp only [Memory.insert, if_pos hk, Memory.read_cons, ih]
    · simp [Memory.insert, hk, Memory.read_cons, Ne.symm hji]

theorem Memory.erase_no_cell (m : Memory) (i : Nat) : ∀ c ∈ m.erase i, c.1 ≠ i := by
  intro c hc; simpa [Memory.erase] using (List.mem_filter.mp hc).2

/-- A read after a write: the byte written at its own index, the old byte everywhere else. -/
@[simp] theorem Memory.read_write (m : Memory) (i j : Nat) (b : Byte) :
    (m.write i b).read j = if j = i then b else m.read j := by
  unfold Memory.write
  by_cases hb : b = Memory.unlisted
  · simp [hb, Memory.read_erase]
  · rw [if_neg hb]
    by_cases hji : j = i
    · rw [if_pos hji, hji, Memory.read_insert_self b (Memory.erase_no_cell m i)]
    · rw [if_neg hji, Memory.read_insert_other _ b hji, Memory.read_erase, if_neg hji]

theorem Memory.read_writeList (bs : List Byte) (m : Memory) (i j : Nat) :
    (m.writeList i bs).read j = if i ≤ j ∧ j < i + bs.length then bs.getD (j - i) 0#8 else m.read j := by
  induction bs generalizing m i with
  | nil => simp [Memory.writeList]
  | cons b bs ih =>
    rw [Memory.writeList, ih, Memory.read_write, List.length_cons]
    rcases Nat.lt_trichotomy j i with h | h | h
    · rw [if_neg (by omega), if_neg (by omega), if_neg (by omega)]
    · subst h
      rw [if_neg (by omega), if_pos rfl, if_pos (by omega)]
      simp
    · by_cases hin : j < i + 1 + bs.length
      · rw [if_pos (by omega), if_pos (by omega), show j - i = (j - (i + 1)) + 1 by omega, List.getD_cons_succ]
      · rw [if_neg (by omega), if_neg (by omega), if_neg (by omega)]

@[simp] theorem Memory.length_bytes (m : Memory) (n : Nat) : (m.bytes n).length = n := by simp [Memory.bytes]

theorem Memory.getElem?_bytes (m : Memory) (n i : Nat) : (m.bytes n)[i]? = if i < n then some (m.read i) else none := by
  by_cases h : i < n <;> simp [Memory.bytes, h]

theorem Memory.bytes_congr {m m' : Memory} {n : Nat} (h : ∀ i, i < n → m.read i = m'.read i) :
    m.bytes n = m'.bytes n := by
  unfold Memory.bytes
  exact List.map_congr_left (fun i hi => h i (List.mem_range.mp hi))

theorem Memory.bytes_succ (m : Memory) (n : Nat) : m.bytes (n + 1) = m.bytes n ++ [m.read n] := by
  simp [Memory.bytes, List.range_succ]

/-- The bytes written at index 0 are the bytes read back. -/
theorem Memory.bytes_writeList (m : Memory) (bs : List Byte) : (m.writeList 0 bs).bytes bs.length = bs := by
  apply List.ext_getElem?
  intro i
  rw [Memory.getElem?_bytes]
  by_cases h : i < bs.length
  · rw [if_pos h, Memory.read_writeList, if_pos (by omega)]
    simp [h]
  · rw [if_neg h, List.getElem?_eq_none (by omega)]

/-! ### The canonical form -/

theorem Memory.wfFrom_mono {m : Memory} {a b : Nat} (h : b ≤ a) (hm : Memory.wfFrom a m = true) :
    Memory.wfFrom b m = true := by
  cases m with
  | nil => rfl
  | cons c m =>
    obtain ⟨k, d⟩ := c
    simp only [Memory.wfFrom, Bool.and_eq_true, decide_eq_true_eq] at hm ⊢
    exact ⟨⟨by omega, hm.1.2⟩, hm.2⟩

theorem Memory.wfFrom_erase {m : Memory} {a : Nat} (i : Nat) (hm : Memory.wfFrom a m = true) :
    Memory.wfFrom a (m.erase i) = true := by
  induction m generalizing a with
  | nil => rfl
  | cons c m ih =>
    obtain ⟨k, d⟩ := c
    simp only [Memory.wfFrom, Bool.and_eq_true, decide_eq_true_eq] at hm
    by_cases hk : k = i
    · have : Memory.erase ((k, d) :: m) i = Memory.erase m i := by simp [Memory.erase, hk]
      rw [this]
      exact Memory.wfFrom_mono (by omega) (ih hm.2)
    · have : Memory.erase ((k, d) :: m) i = (k, d) :: Memory.erase m i := by simp [Memory.erase, hk]
      rw [this]
      simp only [Memory.wfFrom, Bool.and_eq_true, decide_eq_true_eq]
      exact ⟨hm.1, ih hm.2⟩

theorem Memory.wfFrom_insert {m : Memory} {a i : Nat} {b : Byte} (hb : b ≠ Memory.unlisted) (ha : a ≤ i)
    (hi : ∀ c ∈ m, c.1 ≠ i) (hm : Memory.wfFrom a m = true) : Memory.wfFrom a (m.insert i b) = true := by
  induction m generalizing a with
  | nil => simp [Memory.insert, Memory.wfFrom, ha, hb]
  | cons c m ih =>
    obtain ⟨k, d⟩ := c
    have hki : k ≠ i := hi (k, d) (by simp)
    simp only [Memory.wfFrom, Bool.and_eq_true, decide_eq_true_eq] at hm
    by_cases hk : k < i
    · simp only [Memory.insert, if_pos hk, Memory.wfFrom, Bool.and_eq_true, decide_eq_true_eq]
      exact ⟨hm.1, ih (by omega) (fun c hc => hi c (List.mem_cons_of_mem _ hc)) hm.2⟩
    · simp only [Memory.insert, if_neg hk, Memory.wfFrom, Bool.and_eq_true, decide_eq_true_eq, bne_iff_ne]
      exact ⟨⟨ha, hb⟩, ⟨by omega, by simpa using hm.1.2⟩, hm.2⟩

/-- A write keeps the canonical form. -/
theorem Memory.wf_write {m : Memory} (hm : m.wf = true) (i : Nat) (b : Byte) : (m.write i b).wf = true := by
  unfold Memory.write
  split
  · exact Memory.wfFrom_erase i hm
  · rename_i hb
    exact Memory.wfFrom_insert hb (Nat.zero_le i) (Memory.erase_no_cell m i) (Memory.wfFrom_erase i hm)

theorem Memory.wf_writeList {m : Memory} (hm : m.wf = true) (i : Nat) (bs : List Byte) :
    (m.writeList i bs).wf = true := by
  induction bs generalizing m i with
  | nil => exact hm
  | cons b bs ih => exact ih (Memory.wf_write hm i b) (i + 1)

/-- The empty buffer, every buffer of the reset state, is canonical. -/
theorem Memory.wf_nil : Memory.wf [] = true := rfl

/-! ### The size -/

theorem Memory.within_iff {n : Nat} {m : Memory} : Memory.within n m = true ↔ ∀ c ∈ m, c.1 < n := by
  simp [Memory.within]

theorem Memory.mem_insert {m : Memory} {i : Nat} {b : Byte} {c : Host.Cell} (h : c ∈ m.insert i b) :
    c = (i, b) ∨ c ∈ m := by
  induction m with
  | nil => simpa [Memory.insert] using h
  | cons d m ih =>
    obtain ⟨k, e⟩ := d
    by_cases hk : k < i
    · simp only [Memory.insert, if_pos hk, List.mem_cons] at h
      rcases h with h | h
      · exact .inr (by simp [h])
      · rcases ih h with h | h
        · exact .inl h
        · exact .inr (List.mem_cons_of_mem _ h)
    · simp only [Memory.insert, if_neg hk, List.mem_cons] at h
      simpa [List.mem_cons] using h

/-- A write inside the buffer stays inside it. -/
theorem Memory.within_write {n : Nat} {m : Memory} (hm : Memory.within n m = true) {i : Nat} (hi : i < n) (b : Byte) :
    Memory.within n (m.write i b) = true := by
  rw [Memory.within_iff] at hm ⊢
  intro c hc
  have herase : ∀ c ∈ m.erase i, c.1 < n := fun c hc => hm c (List.mem_filter.mp hc).1
  unfold Memory.write at hc
  split at hc
  · exact herase c hc
  · rcases Memory.mem_insert hc with h | h
    · rw [h]; exact hi
    · exact herase c h

theorem Memory.within_writeList {n : Nat} {m : Memory} (hm : Memory.within n m = true) {i : Nat} {bs : List Byte}
    (hi : i + bs.length ≤ n) : Memory.within n (m.writeList i bs) = true := by
  induction bs generalizing m i with
  | nil => exact hm
  | cons b bs ih =>
    rw [List.length_cons] at hi
    exact ih (Memory.within_write hm (by omega) b) (by omega)

/-! ### Canonical buffers are determined by what they read as -/

theorem Memory.read_eq_unlisted_of_lt {m : Memory} {a i : Nat} (hm : Memory.wfFrom a m = true) (hi : i < a) :
    m.read i = Memory.unlisted := by
  induction m generalizing a with
  | nil => rfl
  | cons c m ih =>
    obtain ⟨k, d⟩ := c
    simp only [Memory.wfFrom, Bool.and_eq_true, decide_eq_true_eq] at hm
    rw [Memory.read_cons, if_neg (by omega)]
    exact ih hm.2 (by omega)

theorem Memory.eq_of_read {m m' : Memory} {a a' : Nat} (hm : Memory.wfFrom a m = true)
    (hm' : Memory.wfFrom a' m' = true) (h : ∀ i, m.read i = m'.read i) : m = m' := by
  induction m generalizing a m' a' with
  | nil =>
    cases m' with
    | nil => rfl
    | cons c m' =>
      obtain ⟨k, d⟩ := c
      simp only [Memory.wfFrom, Bool.and_eq_true, bne_iff_ne] at hm'
      have := h k
      simp [Memory.read_cons] at this
      exact absurd this.symm hm'.1.2
  | cons c m ih =>
    obtain ⟨k, d⟩ := c
    simp only [Memory.wfFrom, Bool.and_eq_true, bne_iff_ne, decide_eq_true_eq] at hm
    cases m' with
    | nil =>
      have := h k
      simp [Memory.read_cons] at this
      exact absurd this hm.1.2
    | cons c' m' =>
      obtain ⟨k', d'⟩ := c'
      simp only [Memory.wfFrom, Bool.and_eq_true, bne_iff_ne, decide_eq_true_eq] at hm'
      have hkk : k = k' := by
        rcases Nat.lt_trichotomy k k' with hlt | heq | hgt
        · have := h k
          rw [Memory.read_cons, Memory.read_cons, if_pos rfl, if_neg (by omega),
            Memory.read_eq_unlisted_of_lt hm'.2 (by omega)] at this
          exact absurd this hm.1.2
        · exact heq
        · have := h k'
          rw [Memory.read_cons, Memory.read_cons, if_neg (by omega), if_pos rfl,
            Memory.read_eq_unlisted_of_lt hm.2 (by omega)] at this
          exact absurd this.symm hm'.1.2
      subst hkk
      have hdd : d = d' := by simpa [Memory.read_cons] using h k
      subst hdd
      have htail : ∀ i, Memory.read m i = Memory.read m' i := by
        intro i
        by_cases hik : i ≤ k
        · rw [Memory.read_eq_unlisted_of_lt hm.2 (by omega), Memory.read_eq_unlisted_of_lt hm'.2 (by omega)]
        · have := h i
          rwa [Memory.read_cons, Memory.read_cons, if_neg (by omega), if_neg (by omega)] at this
      rw [ih hm.2 hm'.2 htail]

theorem Memory.read_eq_unlisted_of_within {n : Nat} {m : Memory} (hm : Memory.within n m = true) {i : Nat}
    (hi : n ≤ i) : m.read i = Memory.unlisted := by
  induction m with
  | nil => rfl
  | cons c m ih =>
    obtain ⟨k, d⟩ := c
    rw [Memory.within_iff] at hm
    have hk : k < n := hm (k, d) (by simp)
    rw [Memory.read_cons, if_neg (by omega)]
    exact ih (Memory.within_iff.mpr (fun c hc => hm c (List.mem_cons_of_mem _ hc)))

/-- Two canonical buffers of n bytes that read alike below n are equal. -/
theorem Memory.ext_of_read {n : Nat} {m m' : Memory} (hm : m.wf = true) (hm' : m'.wf = true)
    (hn : Memory.within n m = true) (hn' : Memory.within n m' = true) (h : ∀ i, i < n → m.read i = m'.read i) :
    m = m' := by
  refine Memory.eq_of_read hm hm' (fun i => ?_)
  by_cases hi : i < n
  · exact h i hi
  · rw [Memory.read_eq_unlisted_of_within hn (by omega), Memory.read_eq_unlisted_of_within hn' (by omega)]

end Sys2Proof.Machine
end

