-- ==== Sys2Proof/Laws/State.lean ====
section
/-! SUPPORT. One lemma per field per named update of the state, so that no later proof unfolds a record update. -/

namespace Sys2Proof.Machine

variable (s : State)

@[simp] theorem State.setErr_rxbuf (e : Byte) : (s.setErr e).rxbuf = s.rxbuf := rfl
@[simp] theorem State.setErr_rxLen (e : Byte) : (s.setErr e).rxLen = s.rxLen := rfl
@[simp] theorem State.setErr_rxOvf (e : Byte) : (s.setErr e).rxOvf = s.rxOvf := rfl
@[simp] theorem State.setErr_frameValid (e : Byte) : (s.setErr e).frameValid = s.frameValid := rfl
@[simp] theorem State.setErr_cksumOk (e : Byte) : (s.setErr e).cksumOk = s.cksumOk := rfl
@[simp] theorem State.setErr_statusValid (e : Byte) : (s.setErr e).statusValid = s.statusValid := rfl
@[simp] theorem State.setErr_frameType (e : Byte) : (s.setErr e).frameType = s.frameType := rfl
@[simp] theorem State.setErr_frameSub (e : Byte) : (s.setErr e).frameSub = s.frameSub := rfl
@[simp] theorem State.setErr_frameLen (e : Byte) : (s.setErr e).frameLen = s.frameLen := rfl
@[simp] theorem State.setErr_cksumCalc (e : Byte) : (s.setErr e).cksumCalc = s.cksumCalc := rfl
@[simp] theorem State.setErr_cksumRx (e : Byte) : (s.setErr e).cksumRx = s.cksumRx := rfl
@[simp] theorem State.setErr_err (e : Byte) : (s.setErr e).err = e := rfl
@[simp] theorem State.setErr_fields (e : Byte) : (s.setErr e).fields = s.fields := rfl
@[simp] theorem State.setErr_fvalid (e : Byte) : (s.setErr e).fvalid = s.fvalid := rfl
@[simp] theorem State.setErr_txpay (e : Byte) : (s.setErr e).txpay = s.txpay := rfl
@[simp] theorem State.setErr_txbuf (e : Byte) : (s.setErr e).txbuf = s.txbuf := rfl
@[simp] theorem State.setErr_txLen (e : Byte) : (s.setErr e).txLen = s.txLen := rfl
@[simp] theorem State.setErr_txPtr (e : Byte) : (s.setErr e).txPtr = s.txPtr := rfl
@[simp] theorem State.setErr_params (e : Byte) : (s.setErr e).params = s.params := rfl
@[simp] theorem State.setErr_pending (e : Byte) : (s.setErr e).pending = s.pending := rfl
@[simp] theorem State.setErr_reads (e : Byte) : (s.setErr e).reads = s.reads := rfl
@[simp] theorem State.setErr_line (e : Byte) : (s.setErr e).line = s.line := rfl

@[simp] theorem State.dropFrame_rxbuf : s.dropFrame.rxbuf = s.rxbuf := rfl
@[simp] theorem State.dropFrame_rxLen : s.dropFrame.rxLen = s.rxLen := rfl
@[simp] theorem State.dropFrame_rxOvf : s.dropFrame.rxOvf = s.rxOvf := rfl
@[simp] theorem State.dropFrame_frameValid : s.dropFrame.frameValid = false := rfl
@[simp] theorem State.dropFrame_cksumOk : s.dropFrame.cksumOk = false := rfl
@[simp] theorem State.dropFrame_statusValid : s.dropFrame.statusValid = false := rfl
@[simp] theorem State.dropFrame_frameType : s.dropFrame.frameType = s.frameType := rfl
@[simp] theorem State.dropFrame_frameSub : s.dropFrame.frameSub = s.frameSub := rfl
@[simp] theorem State.dropFrame_frameLen : s.dropFrame.frameLen = s.frameLen := rfl
@[simp] theorem State.dropFrame_cksumCalc : s.dropFrame.cksumCalc = s.cksumCalc := rfl
@[simp] theorem State.dropFrame_cksumRx : s.dropFrame.cksumRx = s.cksumRx := rfl
@[simp] theorem State.dropFrame_err : s.dropFrame.err = s.err := rfl
@[simp] theorem State.dropFrame_fields : s.dropFrame.fields = s.fields := rfl
@[simp] theorem State.dropFrame_fvalid : s.dropFrame.fvalid = s.fvalid := rfl
@[simp] theorem State.dropFrame_txpay : s.dropFrame.txpay = s.txpay := rfl
@[simp] theorem State.dropFrame_txbuf : s.dropFrame.txbuf = s.txbuf := rfl
@[simp] theorem State.dropFrame_txLen : s.dropFrame.txLen = s.txLen := rfl
@[simp] theorem State.dropFrame_txPtr : s.dropFrame.txPtr = s.txPtr := rfl
@[simp] theorem State.dropFrame_params : s.dropFrame.params = s.params := rfl
@[simp] theorem State.dropFrame_pending : s.dropFrame.pending = s.pending := rfl
@[simp] theorem State.dropFrame_reads : s.dropFrame.reads = s.reads := rfl
@[simp] theorem State.dropFrame_line : s.dropFrame.line = s.line := rfl

@[simp] theorem State.acceptFrame_rxbuf : s.acceptFrame.rxbuf = s.rxbuf := rfl
@[simp] theorem State.acceptFrame_rxLen : s.acceptFrame.rxLen = s.rxLen := rfl
@[simp] theorem State.acceptFrame_rxOvf : s.acceptFrame.rxOvf = s.rxOvf := rfl
@[simp] theorem State.acceptFrame_frameValid : s.acceptFrame.frameValid = true := rfl
@[simp] theorem State.acceptFrame_cksumOk : s.acceptFrame.cksumOk = true := rfl
@[simp] theorem State.acceptFrame_statusValid : s.acceptFrame.statusValid = s.statusValid := rfl
@[simp] theorem State.acceptFrame_frameType : s.acceptFrame.frameType = s.frameType := rfl
@[simp] theorem State.acceptFrame_frameSub : s.acceptFrame.frameSub = s.frameSub := rfl
@[simp] theorem State.acceptFrame_frameLen : s.acceptFrame.frameLen = s.frameLen := rfl
@[simp] theorem State.acceptFrame_cksumCalc : s.acceptFrame.cksumCalc = s.cksumCalc := rfl
@[simp] theorem State.acceptFrame_cksumRx : s.acceptFrame.cksumRx = s.cksumRx := rfl
@[simp] theorem State.acceptFrame_err : s.acceptFrame.err = s.err := rfl
@[simp] theorem State.acceptFrame_fields : s.acceptFrame.fields = s.fields := rfl
@[simp] theorem State.acceptFrame_fvalid : s.acceptFrame.fvalid = s.fvalid := rfl
@[simp] theorem State.acceptFrame_txpay : s.acceptFrame.txpay = s.txpay := rfl
@[simp] theorem State.acceptFrame_txbuf : s.acceptFrame.txbuf = s.txbuf := rfl
@[simp] theorem State.acceptFrame_txLen : s.acceptFrame.txLen = s.txLen := rfl
@[simp] theorem State.acceptFrame_txPtr : s.acceptFrame.txPtr = s.txPtr := rfl
@[simp] theorem State.acceptFrame_params : s.acceptFrame.params = s.params := rfl
@[simp] theorem State.acceptFrame_pending : s.acceptFrame.pending = s.pending := rfl
@[simp] theorem State.acceptFrame_reads : s.acceptFrame.reads = s.reads := rfl
@[simp] theorem State.acceptFrame_line : s.acceptFrame.line = s.line := rfl

@[simp] theorem State.setStatusValid_rxbuf (v : Bool) : (s.setStatusValid v).rxbuf = s.rxbuf := rfl
@[simp] theorem State.setStatusValid_rxLen (v : Bool) : (s.setStatusValid v).rxLen = s.rxLen := rfl
@[simp] theorem State.setStatusValid_rxOvf (v : Bool) : (s.setStatusValid v).rxOvf = s.rxOvf := rfl
@[simp] theorem State.setStatusValid_frameValid (v : Bool) : (s.setStatusValid v).frameValid = s.frameValid := rfl
@[simp] theorem State.setStatusValid_cksumOk (v : Bool) : (s.setStatusValid v).cksumOk = s.cksumOk := rfl
@[simp] theorem State.setStatusValid_statusValid (v : Bool) : (s.setStatusValid v).statusValid = v := rfl
@[simp] theorem State.setStatusValid_frameType (v : Bool) : (s.setStatusValid v).frameType = s.frameType := rfl
@[simp] theorem State.setStatusValid_frameSub (v : Bool) : (s.setStatusValid v).frameSub = s.frameSub := rfl
@[simp] theorem State.setStatusValid_frameLen (v : Bool) : (s.setStatusValid v).frameLen = s.frameLen := rfl
@[simp] theorem State.setStatusValid_cksumCalc (v : Bool) : (s.setStatusValid v).cksumCalc = s.cksumCalc := rfl
@[simp] theorem State.setStatusValid_cksumRx (v : Bool) : (s.setStatusValid v).cksumRx = s.cksumRx := rfl
@[simp] theorem State.setStatusValid_err (v : Bool) : (s.setStatusValid v).err = s.err := rfl
@[simp] theorem State.setStatusValid_fields (v : Bool) : (s.setStatusValid v).fields = s.fields := rfl
@[simp] theorem State.setStatusValid_fvalid (v : Bool) : (s.setStatusValid v).fvalid = s.fvalid := rfl
@[simp] theorem State.setStatusValid_txpay (v : Bool) : (s.setStatusValid v).txpay = s.txpay := rfl
@[simp] theorem State.setStatusValid_txbuf (v : Bool) : (s.setStatusValid v).txbuf = s.txbuf := rfl
@[simp] theorem State.setStatusValid_txLen (v : Bool) : (s.setStatusValid v).txLen = s.txLen := rfl
@[simp] theorem State.setStatusValid_txPtr (v : Bool) : (s.setStatusValid v).txPtr = s.txPtr := rfl
@[simp] theorem State.setStatusValid_params (v : Bool) : (s.setStatusValid v).params = s.params := rfl
@[simp] theorem State.setStatusValid_pending (v : Bool) : (s.setStatusValid v).pending = s.pending := rfl
@[simp] theorem State.setStatusValid_reads (v : Bool) : (s.setStatusValid v).reads = s.reads := rfl
@[simp] theorem State.setStatusValid_line (v : Bool) : (s.setStatusValid v).line = s.line := rfl

@[simp] theorem State.latch_rxbuf (ty sub len : Byte) : (s.latch ty sub len).rxbuf = s.rxbuf := rfl
@[simp] theorem State.latch_rxLen (ty sub len : Byte) : (s.latch ty sub len).rxLen = s.rxLen := rfl
@[simp] theorem State.latch_rxOvf (ty sub len : Byte) : (s.latch ty sub len).rxOvf = s.rxOvf := rfl
@[simp] theorem State.latch_frameValid (ty sub len : Byte) : (s.latch ty sub len).frameValid = s.frameValid := rfl
@[simp] theorem State.latch_cksumOk (ty sub len : Byte) : (s.latch ty sub len).cksumOk = s.cksumOk := rfl
@[simp] theorem State.latch_statusValid (ty sub len : Byte) : (s.latch ty sub len).statusValid = s.statusValid := rfl
@[simp] theorem State.latch_frameType (ty sub len : Byte) : (s.latch ty sub len).frameType = ty := rfl
@[simp] theorem State.latch_frameSub (ty sub len : Byte) : (s.latch ty sub len).frameSub = sub := rfl
@[simp] theorem State.latch_frameLen (ty sub len : Byte) : (s.latch ty sub len).frameLen = len := rfl
@[simp] theorem State.latch_cksumCalc (ty sub len : Byte) : (s.latch ty sub len).cksumCalc = s.cksumCalc := rfl
@[simp] theorem State.latch_cksumRx (ty sub len : Byte) : (s.latch ty sub len).cksumRx = s.cksumRx := rfl
@[simp] theorem State.latch_err (ty sub len : Byte) : (s.latch ty sub len).err = s.err := rfl
@[simp] theorem State.latch_fields (ty sub len : Byte) : (s.latch ty sub len).fields = s.fields := rfl
@[simp] theorem State.latch_fvalid (ty sub len : Byte) : (s.latch ty sub len).fvalid = s.fvalid := rfl
@[simp] theorem State.latch_txpay (ty sub len : Byte) : (s.latch ty sub len).txpay = s.txpay := rfl
@[simp] theorem State.latch_txbuf (ty sub len : Byte) : (s.latch ty sub len).txbuf = s.txbuf := rfl
@[simp] theorem State.latch_txLen (ty sub len : Byte) : (s.latch ty sub len).txLen = s.txLen := rfl
@[simp] theorem State.latch_txPtr (ty sub len : Byte) : (s.latch ty sub len).txPtr = s.txPtr := rfl
@[simp] theorem State.latch_params (ty sub len : Byte) : (s.latch ty sub len).params = s.params := rfl
@[simp] theorem State.latch_pending (ty sub len : Byte) : (s.latch ty sub len).pending = s.pending := rfl
@[simp] theorem State.latch_reads (ty sub len : Byte) : (s.latch ty sub len).reads = s.reads := rfl
@[simp] theorem State.latch_line (ty sub len : Byte) : (s.latch ty sub len).line = s.line := rfl

@[simp] theorem State.setCksums_rxbuf (c r : Byte) : (s.setCksums c r).rxbuf = s.rxbuf := rfl
@[simp] theorem State.setCksums_rxLen (c r : Byte) : (s.setCksums c r).rxLen = s.rxLen := rfl
@[simp] theorem State.setCksums_rxOvf (c r : Byte) : (s.setCksums c r).rxOvf = s.rxOvf := rfl
@[simp] theorem State.setCksums_frameValid (c r : Byte) : (s.setCksums c r).frameValid = s.frameValid := rfl
@[simp] theorem State.setCksums_cksumOk (c r : Byte) : (s.setCksums c r).cksumOk = s.cksumOk := rfl
@[simp] theorem State.setCksums_statusValid (c r : Byte) : (s.setCksums c r).statusValid = s.statusValid := rfl
@[simp] theorem State.setCksums_frameType (c r : Byte) : (s.setCksums c r).frameType = s.frameType := rfl
@[simp] theorem State.setCksums_frameSub (c r : Byte) : (s.setCksums c r).frameSub = s.frameSub := rfl
@[simp] theorem State.setCksums_frameLen (c r : Byte) : (s.setCksums c r).frameLen = s.frameLen := rfl
@[simp] theorem State.setCksums_cksumCalc (c r : Byte) : (s.setCksums c r).cksumCalc = c := rfl
@[simp] theorem State.setCksums_cksumRx (c r : Byte) : (s.setCksums c r).cksumRx = r := rfl
@[simp] theorem State.setCksums_err (c r : Byte) : (s.setCksums c r).err = s.err := rfl
@[simp] theorem State.setCksums_fields (c r : Byte) : (s.setCksums c r).fields = s.fields := rfl
@[simp] theorem State.setCksums_fvalid (c r : Byte) : (s.setCksums c r).fvalid = s.fvalid := rfl
@[simp] theorem State.setCksums_txpay (c r : Byte) : (s.setCksums c r).txpay = s.txpay := rfl
@[simp] theorem State.setCksums_txbuf (c r : Byte) : (s.setCksums c r).txbuf = s.txbuf := rfl
@[simp] theorem State.setCksums_txLen (c r : Byte) : (s.setCksums c r).txLen = s.txLen := rfl
@[simp] theorem State.setCksums_txPtr (c r : Byte) : (s.setCksums c r).txPtr = s.txPtr := rfl
@[simp] theorem State.setCksums_params (c r : Byte) : (s.setCksums c r).params = s.params := rfl
@[simp] theorem State.setCksums_pending (c r : Byte) : (s.setCksums c r).pending = s.pending := rfl
@[simp] theorem State.setCksums_reads (c r : Byte) : (s.setCksums c r).reads = s.reads := rfl
@[simp] theorem State.setCksums_line (c r : Byte) : (s.setCksums c r).line = s.line := rfl

@[simp] theorem State.setFields_rxbuf (f : Fields) (v : BitVec 6) : (s.setFields f v).rxbuf = s.rxbuf := rfl
@[simp] theorem State.setFields_rxLen (f : Fields) (v : BitVec 6) : (s.setFields f v).rxLen = s.rxLen := rfl
@[simp] theorem State.setFields_rxOvf (f : Fields) (v : BitVec 6) : (s.setFields f v).rxOvf = s.rxOvf := rfl
@[simp] theorem State.setFields_frameValid (f : Fields) (v : BitVec 6) : (s.setFields f v).frameValid = s.frameValid := rfl
@[simp] theorem State.setFields_cksumOk (f : Fields) (v : BitVec 6) : (s.setFields f v).cksumOk = s.cksumOk := rfl
@[simp] theorem State.setFields_statusValid (f : Fields) (v : BitVec 6) : (s.setFields f v).statusValid = s.statusValid := rfl
@[simp] theorem State.setFields_frameType (f : Fields) (v : BitVec 6) : (s.setFields f v).frameType = s.frameType := rfl
@[simp] theorem State.setFields_frameSub (f : Fields) (v : BitVec 6) : (s.setFields f v).frameSub = s.frameSub := rfl
@[simp] theorem State.setFields_frameLen (f : Fields) (v : BitVec 6) : (s.setFields f v).frameLen = s.frameLen := rfl
@[simp] theorem State.setFields_cksumCalc (f : Fields) (v : BitVec 6) : (s.setFields f v).cksumCalc = s.cksumCalc := rfl
@[simp] theorem State.setFields_cksumRx (f : Fields) (v : BitVec 6) : (s.setFields f v).cksumRx = s.cksumRx := rfl
@[simp] theorem State.setFields_err (f : Fields) (v : BitVec 6) : (s.setFields f v).err = s.err := rfl
@[simp] theorem State.setFields_fields (f : Fields) (v : BitVec 6) : (s.setFields f v).fields = f := rfl
@[simp] theorem State.setFields_fvalid (f : Fields) (v : BitVec 6) : (s.setFields f v).fvalid = v := rfl
@[simp] theorem State.setFields_txpay (f : Fields) (v : BitVec 6) : (s.setFields f v).txpay = s.txpay := rfl
@[simp] theorem State.setFields_txbuf (f : Fields) (v : BitVec 6) : (s.setFields f v).txbuf = s.txbuf := rfl
@[simp] theorem State.setFields_txLen (f : Fields) (v : BitVec 6) : (s.setFields f v).txLen = s.txLen := rfl
@[simp] theorem State.setFields_txPtr (f : Fields) (v : BitVec 6) : (s.setFields f v).txPtr = s.txPtr := rfl
@[simp] theorem State.setFields_params (f : Fields) (v : BitVec 6) : (s.setFields f v).params = s.params := rfl
@[simp] theorem State.setFields_pending (f : Fields) (v : BitVec 6) : (s.setFields f v).pending = s.pending := rfl
@[simp] theorem State.setFields_reads (f : Fields) (v : BitVec 6) : (s.setFields f v).reads = s.reads := rfl
@[simp] theorem State.setFields_line (f : Fields) (v : BitVec 6) : (s.setFields f v).line = s.line := rfl

@[simp] theorem State.setRead_rxbuf (buf : Memory) (len : Byte) (ovf : Bool) : (s.setRead buf len ovf).rxbuf = buf := rfl
@[simp] theorem State.setRead_rxLen (buf : Memory) (len : Byte) (ovf : Bool) : (s.setRead buf len ovf).rxLen = len := rfl
@[simp] theorem State.setRead_rxOvf (buf : Memory) (len : Byte) (ovf : Bool) : (s.setRead buf len ovf).rxOvf = ovf := rfl
@[simp] theorem State.setRead_frameValid (buf : Memory) (len : Byte) (ovf : Bool) : (s.setRead buf len ovf).frameValid = s.frameValid := rfl
@[simp] theorem State.setRead_cksumOk (buf : Memory) (len : Byte) (ovf : Bool) : (s.setRead buf len ovf).cksumOk = s.cksumOk := rfl
@[simp] theorem State.setRead_statusValid (buf : Memory) (len : Byte) (ovf : Bool) : (s.setRead buf len ovf).statusValid = s.statusValid := rfl
@[simp] theorem State.setRead_frameType (buf : Memory) (len : Byte) (ovf : Bool) : (s.setRead buf len ovf).frameType = s.frameType := rfl
@[simp] theorem State.setRead_frameSub (buf : Memory) (len : Byte) (ovf : Bool) : (s.setRead buf len ovf).frameSub = s.frameSub := rfl
@[simp] theorem State.setRead_frameLen (buf : Memory) (len : Byte) (ovf : Bool) : (s.setRead buf len ovf).frameLen = s.frameLen := rfl
@[simp] theorem State.setRead_cksumCalc (buf : Memory) (len : Byte) (ovf : Bool) : (s.setRead buf len ovf).cksumCalc = s.cksumCalc := rfl
@[simp] theorem State.setRead_cksumRx (buf : Memory) (len : Byte) (ovf : Bool) : (s.setRead buf len ovf).cksumRx = s.cksumRx := rfl
@[simp] theorem State.setRead_err (buf : Memory) (len : Byte) (ovf : Bool) : (s.setRead buf len ovf).err = s.err := rfl
@[simp] theorem State.setRead_fields (buf : Memory) (len : Byte) (ovf : Bool) : (s.setRead buf len ovf).fields = s.fields := rfl
@[simp] theorem State.setRead_fvalid (buf : Memory) (len : Byte) (ovf : Bool) : (s.setRead buf len ovf).fvalid = s.fvalid := rfl
@[simp] theorem State.setRead_txpay (buf : Memory) (len : Byte) (ovf : Bool) : (s.setRead buf len ovf).txpay = s.txpay := rfl
@[simp] theorem State.setRead_txbuf (buf : Memory) (len : Byte) (ovf : Bool) : (s.setRead buf len ovf).txbuf = s.txbuf := rfl
@[simp] theorem State.setRead_txLen (buf : Memory) (len : Byte) (ovf : Bool) : (s.setRead buf len ovf).txLen = s.txLen := rfl
@[simp] theorem State.setRead_txPtr (buf : Memory) (len : Byte) (ovf : Bool) : (s.setRead buf len ovf).txPtr = s.txPtr := rfl
@[simp] theorem State.setRead_params (buf : Memory) (len : Byte) (ovf : Bool) : (s.setRead buf len ovf).params = s.params := rfl
@[simp] theorem State.setRead_pending (buf : Memory) (len : Byte) (ovf : Bool) : (s.setRead buf len ovf).pending = s.pending := rfl
@[simp] theorem State.setRead_reads (buf : Memory) (len : Byte) (ovf : Bool) : (s.setRead buf len ovf).reads = s.reads := rfl
@[simp] theorem State.setRead_line (buf : Memory) (len : Byte) (ovf : Bool) : (s.setRead buf len ovf).line = s.line := rfl

@[simp] theorem State.setTx_rxbuf (buf : Memory) (len ptr : Byte) : (s.setTx buf len ptr).rxbuf = s.rxbuf := rfl
@[simp] theorem State.setTx_rxLen (buf : Memory) (len ptr : Byte) : (s.setTx buf len ptr).rxLen = s.rxLen := rfl
@[simp] theorem State.setTx_rxOvf (buf : Memory) (len ptr : Byte) : (s.setTx buf len ptr).rxOvf = s.rxOvf := rfl
@[simp] theorem State.setTx_frameValid (buf : Memory) (len ptr : Byte) : (s.setTx buf len ptr).frameValid = s.frameValid := rfl
@[simp] theorem State.setTx_cksumOk (buf : Memory) (len ptr : Byte) : (s.setTx buf len ptr).cksumOk = s.cksumOk := rfl
@[simp] theorem State.setTx_statusValid (buf : Memory) (len ptr : Byte) : (s.setTx buf len ptr).statusValid = s.statusValid := rfl
@[simp] theorem State.setTx_frameType (buf : Memory) (len ptr : Byte) : (s.setTx buf len ptr).frameType = s.frameType := rfl
@[simp] theorem State.setTx_frameSub (buf : Memory) (len ptr : Byte) : (s.setTx buf len ptr).frameSub = s.frameSub := rfl
@[simp] theorem State.setTx_frameLen (buf : Memory) (len ptr : Byte) : (s.setTx buf len ptr).frameLen = s.frameLen := rfl
@[simp] theorem State.setTx_cksumCalc (buf : Memory) (len ptr : Byte) : (s.setTx buf len ptr).cksumCalc = s.cksumCalc := rfl
@[simp] theorem State.setTx_cksumRx (buf : Memory) (len ptr : Byte) : (s.setTx buf len ptr).cksumRx = s.cksumRx := rfl
@[simp] theorem State.setTx_err (buf : Memory) (len ptr : Byte) : (s.setTx buf len ptr).err = s.err := rfl
@[simp] theorem State.setTx_fields (buf : Memory) (len ptr : Byte) : (s.setTx buf len ptr).fields = s.fields := rfl
@[simp] theorem State.setTx_fvalid (buf : Memory) (len ptr : Byte) : (s.setTx buf len ptr).fvalid = s.fvalid := rfl
@[simp] theorem State.setTx_txpay (buf : Memory) (len ptr : Byte) : (s.setTx buf len ptr).txpay = s.txpay := rfl
@[simp] theorem State.setTx_txbuf (buf : Memory) (len ptr : Byte) : (s.setTx buf len ptr).txbuf = buf := rfl
@[simp] theorem State.setTx_txLen (buf : Memory) (len ptr : Byte) : (s.setTx buf len ptr).txLen = len := rfl
@[simp] theorem State.setTx_txPtr (buf : Memory) (len ptr : Byte) : (s.setTx buf len ptr).txPtr = ptr := rfl
@[simp] theorem State.setTx_params (buf : Memory) (len ptr : Byte) : (s.setTx buf len ptr).params = s.params := rfl
@[simp] theorem State.setTx_pending (buf : Memory) (len ptr : Byte) : (s.setTx buf len ptr).pending = s.pending := rfl
@[simp] theorem State.setTx_reads (buf : Memory) (len ptr : Byte) : (s.setTx buf len ptr).reads = s.reads := rfl
@[simp] theorem State.setTx_line (buf : Memory) (len ptr : Byte) : (s.setTx buf len ptr).line = s.line := rfl

@[simp] theorem State.setTxpay_rxbuf (buf : Memory) : (s.setTxpay buf).rxbuf = s.rxbuf := rfl
@[simp] theorem State.setTxpay_rxLen (buf : Memory) : (s.setTxpay buf).rxLen = s.rxLen := rfl
@[simp] theorem State.setTxpay_rxOvf (buf : Memory) : (s.setTxpay buf).rxOvf = s.rxOvf := rfl
@[simp] theorem State.setTxpay_frameValid (buf : Memory) : (s.setTxpay buf).frameValid = s.frameValid := rfl
@[simp] theorem State.setTxpay_cksumOk (buf : Memory) : (s.setTxpay buf).cksumOk = s.cksumOk := rfl
@[simp] theorem State.setTxpay_statusValid (buf : Memory) : (s.setTxpay buf).statusValid = s.statusValid := rfl
@[simp] theorem State.setTxpay_frameType (buf : Memory) : (s.setTxpay buf).frameType = s.frameType := rfl
@[simp] theorem State.setTxpay_frameSub (buf : Memory) : (s.setTxpay buf).frameSub = s.frameSub := rfl
@[simp] theorem State.setTxpay_frameLen (buf : Memory) : (s.setTxpay buf).frameLen = s.frameLen := rfl
@[simp] theorem State.setTxpay_cksumCalc (buf : Memory) : (s.setTxpay buf).cksumCalc = s.cksumCalc := rfl
@[simp] theorem State.setTxpay_cksumRx (buf : Memory) : (s.setTxpay buf).cksumRx = s.cksumRx := rfl
@[simp] theorem State.setTxpay_err (buf : Memory) : (s.setTxpay buf).err = s.err := rfl
@[simp] theorem State.setTxpay_fields (buf : Memory) : (s.setTxpay buf).fields = s.fields := rfl
@[simp] theorem State.setTxpay_fvalid (buf : Memory) : (s.setTxpay buf).fvalid = s.fvalid := rfl
@[simp] theorem State.setTxpay_txpay (buf : Memory) : (s.setTxpay buf).txpay = buf := rfl
@[simp] theorem State.setTxpay_txbuf (buf : Memory) : (s.setTxpay buf).txbuf = s.txbuf := rfl
@[simp] theorem State.setTxpay_txLen (buf : Memory) : (s.setTxpay buf).txLen = s.txLen := rfl
@[simp] theorem State.setTxpay_txPtr (buf : Memory) : (s.setTxpay buf).txPtr = s.txPtr := rfl
@[simp] theorem State.setTxpay_params (buf : Memory) : (s.setTxpay buf).params = s.params := rfl
@[simp] theorem State.setTxpay_pending (buf : Memory) : (s.setTxpay buf).pending = s.pending := rfl
@[simp] theorem State.setTxpay_reads (buf : Memory) : (s.setTxpay buf).reads = s.reads := rfl
@[simp] theorem State.setTxpay_line (buf : Memory) : (s.setTxpay buf).line = s.line := rfl

@[simp] theorem State.logRead_rxbuf (b : Byte) : (s.logRead b).rxbuf = s.rxbuf := rfl
@[simp] theorem State.logRead_rxLen (b : Byte) : (s.logRead b).rxLen = s.rxLen := rfl
@[simp] theorem State.logRead_rxOvf (b : Byte) : (s.logRead b).rxOvf = s.rxOvf := rfl
@[simp] theorem State.logRead_frameValid (b : Byte) : (s.logRead b).frameValid = s.frameValid := rfl
@[simp] theorem State.logRead_cksumOk (b : Byte) : (s.logRead b).cksumOk = s.cksumOk := rfl
@[simp] theorem State.logRead_statusValid (b : Byte) : (s.logRead b).statusValid = s.statusValid := rfl
@[simp] theorem State.logRead_frameType (b : Byte) : (s.logRead b).frameType = s.frameType := rfl
@[simp] theorem State.logRead_frameSub (b : Byte) : (s.logRead b).frameSub = s.frameSub := rfl
@[simp] theorem State.logRead_frameLen (b : Byte) : (s.logRead b).frameLen = s.frameLen := rfl
@[simp] theorem State.logRead_cksumCalc (b : Byte) : (s.logRead b).cksumCalc = s.cksumCalc := rfl
@[simp] theorem State.logRead_cksumRx (b : Byte) : (s.logRead b).cksumRx = s.cksumRx := rfl
@[simp] theorem State.logRead_err (b : Byte) : (s.logRead b).err = s.err := rfl
@[simp] theorem State.logRead_fields (b : Byte) : (s.logRead b).fields = s.fields := rfl
@[simp] theorem State.logRead_fvalid (b : Byte) : (s.logRead b).fvalid = s.fvalid := rfl
@[simp] theorem State.logRead_txpay (b : Byte) : (s.logRead b).txpay = s.txpay := rfl
@[simp] theorem State.logRead_txbuf (b : Byte) : (s.logRead b).txbuf = s.txbuf := rfl
@[simp] theorem State.logRead_txLen (b : Byte) : (s.logRead b).txLen = s.txLen := rfl
@[simp] theorem State.logRead_txPtr (b : Byte) : (s.logRead b).txPtr = s.txPtr := rfl
@[simp] theorem State.logRead_params (b : Byte) : (s.logRead b).params = s.params := rfl
@[simp] theorem State.logRead_pending (b : Byte) : (s.logRead b).pending = s.pending := rfl
@[simp] theorem State.logRead_reads (b : Byte) : (s.logRead b).reads = s.reads ++ [b] := rfl
@[simp] theorem State.logRead_line (b : Byte) : (s.logRead b).line = s.line := rfl

@[simp] theorem State.logLine_rxbuf (b : Byte) : (s.logLine b).rxbuf = s.rxbuf := rfl
@[simp] theorem State.logLine_rxLen (b : Byte) : (s.logLine b).rxLen = s.rxLen := rfl
@[simp] theorem State.logLine_rxOvf (b : Byte) : (s.logLine b).rxOvf = s.rxOvf := rfl
@[simp] theorem State.logLine_frameValid (b : Byte) : (s.logLine b).frameValid = s.frameValid := rfl
@[simp] theorem State.logLine_cksumOk (b : Byte) : (s.logLine b).cksumOk = s.cksumOk := rfl
@[simp] theorem State.logLine_statusValid (b : Byte) : (s.logLine b).statusValid = s.statusValid := rfl
@[simp] theorem State.logLine_frameType (b : Byte) : (s.logLine b).frameType = s.frameType := rfl
@[simp] theorem State.logLine_frameSub (b : Byte) : (s.logLine b).frameSub = s.frameSub := rfl
@[simp] theorem State.logLine_frameLen (b : Byte) : (s.logLine b).frameLen = s.frameLen := rfl
@[simp] theorem State.logLine_cksumCalc (b : Byte) : (s.logLine b).cksumCalc = s.cksumCalc := rfl
@[simp] theorem State.logLine_cksumRx (b : Byte) : (s.logLine b).cksumRx = s.cksumRx := rfl
@[simp] theorem State.logLine_err (b : Byte) : (s.logLine b).err = s.err := rfl
@[simp] theorem State.logLine_fields (b : Byte) : (s.logLine b).fields = s.fields := rfl
@[simp] theorem State.logLine_fvalid (b : Byte) : (s.logLine b).fvalid = s.fvalid := rfl
@[simp] theorem State.logLine_txpay (b : Byte) : (s.logLine b).txpay = s.txpay := rfl
@[simp] theorem State.logLine_txbuf (b : Byte) : (s.logLine b).txbuf = s.txbuf := rfl
@[simp] theorem State.logLine_txLen (b : Byte) : (s.logLine b).txLen = s.txLen := rfl
@[simp] theorem State.logLine_txPtr (b : Byte) : (s.logLine b).txPtr = s.txPtr := rfl
@[simp] theorem State.logLine_params (b : Byte) : (s.logLine b).params = s.params := rfl
@[simp] theorem State.logLine_pending (b : Byte) : (s.logLine b).pending = s.pending := rfl
@[simp] theorem State.logLine_reads (b : Byte) : (s.logLine b).reads = s.reads := rfl
@[simp] theorem State.logLine_line (b : Byte) : (s.logLine b).line = s.line ++ [b] := rfl

@[simp] theorem State.setPending_rxbuf (es : List Input) : (s.setPending es).rxbuf = s.rxbuf := rfl
@[simp] theorem State.setPending_rxLen (es : List Input) : (s.setPending es).rxLen = s.rxLen := rfl
@[simp] theorem State.setPending_rxOvf (es : List Input) : (s.setPending es).rxOvf = s.rxOvf := rfl
@[simp] theorem State.setPending_frameValid (es : List Input) : (s.setPending es).frameValid = s.frameValid := rfl
@[simp] theorem State.setPending_cksumOk (es : List Input) : (s.setPending es).cksumOk = s.cksumOk := rfl
@[simp] theorem State.setPending_statusValid (es : List Input) : (s.setPending es).statusValid = s.statusValid := rfl
@[simp] theorem State.setPending_frameType (es : List Input) : (s.setPending es).frameType = s.frameType := rfl
@[simp] theorem State.setPending_frameSub (es : List Input) : (s.setPending es).frameSub = s.frameSub := rfl
@[simp] theorem State.setPending_frameLen (es : List Input) : (s.setPending es).frameLen = s.frameLen := rfl
@[simp] theorem State.setPending_cksumCalc (es : List Input) : (s.setPending es).cksumCalc = s.cksumCalc := rfl
@[simp] theorem State.setPending_cksumRx (es : List Input) : (s.setPending es).cksumRx = s.cksumRx := rfl
@[simp] theorem State.setPending_err (es : List Input) : (s.setPending es).err = s.err := rfl
@[simp] theorem State.setPending_fields (es : List Input) : (s.setPending es).fields = s.fields := rfl
@[simp] theorem State.setPending_fvalid (es : List Input) : (s.setPending es).fvalid = s.fvalid := rfl
@[simp] theorem State.setPending_txpay (es : List Input) : (s.setPending es).txpay = s.txpay := rfl
@[simp] theorem State.setPending_txbuf (es : List Input) : (s.setPending es).txbuf = s.txbuf := rfl
@[simp] theorem State.setPending_txLen (es : List Input) : (s.setPending es).txLen = s.txLen := rfl
@[simp] theorem State.setPending_txPtr (es : List Input) : (s.setPending es).txPtr = s.txPtr := rfl
@[simp] theorem State.setPending_params (es : List Input) : (s.setPending es).params = s.params := rfl
@[simp] theorem State.setPending_pending (es : List Input) : (s.setPending es).pending = es := rfl
@[simp] theorem State.setPending_reads (es : List Input) : (s.setPending es).reads = s.reads := rfl
@[simp] theorem State.setPending_line (es : List Input) : (s.setPending es).line = s.line := rfl

@[simp] theorem State.finish_rxbuf (e : ErrCode) : (s.finish e).rxbuf = s.rxbuf := rfl
@[simp] theorem State.finish_rxLen (e : ErrCode) : (s.finish e).rxLen = s.rxLen := rfl
@[simp] theorem State.finish_rxOvf (e : ErrCode) : (s.finish e).rxOvf = s.rxOvf := rfl
@[simp] theorem State.finish_frameValid (e : ErrCode) : (s.finish e).frameValid = s.frameValid := rfl
@[simp] theorem State.finish_cksumOk (e : ErrCode) : (s.finish e).cksumOk = s.cksumOk := rfl
@[simp] theorem State.finish_statusValid (e : ErrCode) : (s.finish e).statusValid = s.statusValid := rfl
@[simp] theorem State.finish_frameType (e : ErrCode) : (s.finish e).frameType = s.frameType := rfl
@[simp] theorem State.finish_frameSub (e : ErrCode) : (s.finish e).frameSub = s.frameSub := rfl
@[simp] theorem State.finish_frameLen (e : ErrCode) : (s.finish e).frameLen = s.frameLen := rfl
@[simp] theorem State.finish_cksumCalc (e : ErrCode) : (s.finish e).cksumCalc = s.cksumCalc := rfl
@[simp] theorem State.finish_cksumRx (e : ErrCode) : (s.finish e).cksumRx = s.cksumRx := rfl
@[simp] theorem State.finish_err (e : ErrCode) : (s.finish e).err = e.code := rfl
@[simp] theorem State.finish_fields (e : ErrCode) : (s.finish e).fields = s.fields := rfl
@[simp] theorem State.finish_fvalid (e : ErrCode) : (s.finish e).fvalid = s.fvalid := rfl
@[simp] theorem State.finish_txpay (e : ErrCode) : (s.finish e).txpay = s.txpay := rfl
@[simp] theorem State.finish_txbuf (e : ErrCode) : (s.finish e).txbuf = s.txbuf := rfl
@[simp] theorem State.finish_txLen (e : ErrCode) : (s.finish e).txLen = s.txLen := rfl
@[simp] theorem State.finish_txPtr (e : ErrCode) : (s.finish e).txPtr = s.txPtr := rfl
@[simp] theorem State.finish_params (e : ErrCode) : (s.finish e).params = s.params := rfl
@[simp] theorem State.finish_pending (e : ErrCode) : (s.finish e).pending = s.pending := rfl
@[simp] theorem State.finish_reads (e : ErrCode) : (s.finish e).reads = s.reads := rfl
@[simp] theorem State.finish_line (e : ErrCode) : (s.finish e).line = s.line := rfl

end Sys2Proof.Machine
end

