-- ==== Sys2Proof/Laws/Ops.lean ====
section
/-! SUPPORT. One lemma per shared operation, saying everything it can do, and the small lemmas of the value level. -/

namespace Sys2Proof.Machine

/-! ### Result codes and derived values -/

theorem ErrCode.code_le_nine (e : ErrCode) : e.code.toNat ≤ 9 := by cases e <;> decide

theorem ErrCode.code_inj {e e' : ErrCode} : e.code = e'.code ↔ e = e' := by cases e <;> cases e' <;> decide

theorem State.txPending_iff (s : State) : s.txPending = true ↔ s.txPtr.toNat < s.txLen.toNat := by
  simp [State.txPending]

theorem State.hasMarker_iff (s : State) :
    s.hasMarker = true ↔ s.rxbuf.read 0 = 0x7E#8 ∧ s.rxbuf.read 1 = 0x7E#8 := by
  simp [State.hasMarker, markerByte]

theorem hasStatusSignature_iff (s : State) :
    hasStatusSignature s = true ↔ s.rxbuf.read 2 = 0xFF#8 ∧ s.rxbuf.read 3 = 0xE0#8 := by
  simp [hasStatusSignature]

theorem fieldInRange_iff (p : Params) (n : Nat) (k : FieldId) :
    fieldInRange p n k = true ↔ fieldIndex p k + FieldId.width k ≤ n := by
  simp [fieldInRange]

theorem Params.admissible_iff (p : Params) :
    p.admissible = true ↔ (p.fieldBase = 0 ∨ p.fieldBase = 4) ∧ (p.ihxOffset = 0 ∨ p.ihxOffset = 16) ∧ 0 < p.liqPDiv := by
  simp [Params.admissible, and_assoc]

theorem shape_cases (ty : Byte) :
    ty = 0x02#8 ∧ shape ty = 5#8 ∨ ty = 0xFF#8 ∧ shape ty = 255#8 ∨ ty = 0x25#8 ∧ shape ty = 40#8 ∨
      (ty ≠ 0x02#8 ∧ ty ≠ 0xFF#8 ∧ ty ≠ 0x25#8) ∧ shape ty = 0#8 := by
  unfold shape
  split_ifs <;> simp_all

theorem shape_status : shape 0xFF#8 = 255#8 := by decide

/-- Bit k of FVALID after an extraction is the range condition of field k. -/
theorem getLsbD_extractedValid (p : Params) (n : Nat) (k : FieldId) :
    (extractedValid p n).getLsbD (FieldId.index k) = fieldInRange p n k := by
  unfold extractedValid
  rw [BitVec.getLsbD_ofBoolListLE]
  cases k <;> rfl

/-- FVALID is determined by the six range conditions. -/
theorem extractedValid_eq {p : Params} {n : Nat} {v : BitVec 6}
    (h : ∀ k, v.getLsbD (FieldId.index k) = fieldInRange p n k) : extractedValid p n = v := by
  apply BitVec.eq_of_getLsbD_eq
  intro i hi
  rcases (show i = 0 ∨ i = 1 ∨ i = 2 ∨ i = 3 ∨ i = 4 ∨ i = 5 by omega) with rfl | rfl | rfl | rfl | rfl | rfl
  · exact (getLsbD_extractedValid p n .vp).trans (h .vp).symm
  · exact (getLsbD_extractedValid p n .lp).trans (h .lp).symm
  · exact (getLsbD_extractedValid p n .vt).trans (h .vt).symm
  · exact (getLsbD_extractedValid p n .lt).trans (h .lt).symm
  · exact (getLsbD_extractedValid p n .oct).trans (h .oct).symm
  · exact (getLsbD_extractedValid p n .ihx).trans (h .ihx).symm

theorem extractedFields_get (s : State) (n : Nat) (k : FieldId) : (extractedFields s n).get k = fieldValue s n k := by
  cases k <;> rfl

theorem allInRange_iff (p : Params) (n : Nat) : allInRange p n = true ↔ ∀ k, fieldInRange p n k = true := by
  simp only [allInRange, Bool.and_eq_true]
  refine ⟨fun h k => ?_, fun h => ⟨⟨⟨⟨⟨h .vp, h .lp⟩, h .vt⟩, h .lt⟩, h .oct⟩, h .ihx⟩⟩
  cases k
  · exact h.1.1.1.1.1
  · exact h.1.1.1.1.2
  · exact h.1.1.1.2
  · exact h.1.1.2
  · exact h.1.2
  · exact h.2

/-- What an extraction reads: two reads that agree below n give the same fields. -/
theorem fieldValue_congr {s t : State} {n : Nat} (hp : s.params = t.params)
    (h : ∀ i, i < n → s.rxbuf.read i = t.rxbuf.read i) (k : FieldId) : fieldValue s n k = fieldValue t n k := by
  unfold fieldValue
  rw [hp]
  by_cases hk : fieldInRange t.params n k = true
  · rw [if_pos hk, if_pos hk]
    rw [fieldInRange_iff] at hk
    unfold decodeField
    cases k <;> simp only [FieldId.encoding, FieldId.width] at hk ⊢
    all_goals first
      | rw [h _ (by omega), h _ (by omega)]
      | rw [h _ (by omega)]
  · rw [if_neg hk, if_neg hk]

/-! ### The serial ports -/

/-- Everything an RX push can do. -/
theorem rxPush_cases (b : Byte) (s : State) :
    (s.rxLen.toNat < 255 ∧
      rxPush b s = s.dropFrame.setRead (s.rxbuf.write s.rxLen.toNat b) (s.rxLen + 1#8) s.rxOvf) ∨
    (s.rxLen = 255#8 ∧ rxPush b s = s.dropFrame.setRead s.rxbuf s.rxLen true) := by
  unfold rxPush
  by_cases h : s.rxLen.toNat < 255
  · exact .inl ⟨h, if_pos h⟩
  · exact .inr ⟨by bv_omega, if_neg h⟩

/-- Everything a TX pop by the host can do. -/
theorem txPop_cases (s : State) :
    (s.txPtr.toNat < s.txLen.toNat ∧ txPop s = (s.txbuf.read s.txPtr.toNat, s.setTx s.txbuf s.txLen (s.txPtr + 1#8))) ∨
    (s.txLen.toNat ≤ s.txPtr.toNat ∧ txPop s = (0x00#8, s)) := by
  unfold txPop
  by_cases h : s.txPending = true
  · exact .inl ⟨(s.txPending_iff).mp h, if_pos h⟩
  · refine .inr ⟨?_, if_neg h⟩
    rw [s.txPending_iff] at h; omega

/-- Everything a TX pop by the sink can do. -/
theorem sinkPop_cases (s : State) :
    (s.txPtr.toNat < s.txLen.toNat ∧
      sinkPop s = (s.setTx s.txbuf s.txLen (s.txPtr + 1#8)).logLine (s.txbuf.read s.txPtr.toNat)) ∨
    (s.txLen.toNat ≤ s.txPtr.toNat ∧ sinkPop s = s) := by
  unfold sinkPop
  by_cases h : s.txPending = true
  · exact .inl ⟨(s.txPending_iff).mp h, if_pos h⟩
  · refine .inr ⟨?_, if_neg h⟩
    rw [s.txPending_iff] at h; omega

/-! ### Commands -/

/-- Everything DECODE can do, guards included. -/
theorem decodeCmd_cases (s : State) :
    ((s.rxLen.toNat < 2 ∨ s.hasMarker = false) ∧ decodeCmd s = (decodeStart s).finish .badMarker) ∨
    (2 ≤ s.rxLen.toNat ∧ s.hasMarker = true ∧
      (s.rxLen.toNat < 3 ∨ s.rxOvf = true ∨ shape (s.rxbuf.read 2) = 0x00#8 ∨ s.rxLen ≠ shape (s.rxbuf.read 2)) ∧
      decodeCmd s = (decodeStart s).finish .badLength) ∨
    (3 ≤ s.rxLen.toNat ∧ s.hasMarker = true ∧ s.rxOvf = false ∧ shape (s.rxbuf.read 2) ≠ 0x00#8 ∧
      s.rxLen = shape (s.rxbuf.read 2) ∧ readChecksum s ≠ lastByte s ∧
      decodeCmd s = ((decodeStart s).setCksums (readChecksum s) (lastByte s)).finish .checksumMismatch) ∨
    (3 ≤ s.rxLen.toNat ∧ s.hasMarker = true ∧ s.rxOvf = false ∧ shape (s.rxbuf.read 2) ≠ 0x00#8 ∧
      s.rxLen = shape (s.rxbuf.read 2) ∧ readChecksum s = lastByte s ∧
      decodeCmd s = ((((decodeStart s).setCksums (readChecksum s) (lastByte s)).acceptFrame).latch
        (s.rxbuf.read 2) (s.rxbuf.read 3) s.rxLen).finish .ok) := by
  unfold decodeCmd
  by_cases h1 : s.rxLen.toNat < 2 ∨ s.hasMarker = false
  · exact .inl ⟨h1, if_pos h1⟩
  · have h1' := not_or.mp h1
    have hm : s.hasMarker = true := by simpa using h1'.2
    rw [if_neg h1]
    by_cases h2 : s.rxLen.toNat < 3
    · exact .inr (.inl ⟨by omega, hm, .inl h2, if_pos h2⟩)
    · rw [if_neg h2]
      by_cases h3 : s.rxOvf = true ∨ shape (s.rxbuf.read 2) = 0x00#8 ∨ s.rxLen ≠ shape (s.rxbuf.read 2)
      · exact .inr (.inl ⟨by omega, hm, .inr h3, if_pos h3⟩)
      · rw [if_neg h3]
        simp only [not_or, not_not, Bool.not_eq_true] at h3
        by_cases h4 : readChecksum s ≠ lastByte s
        · exact .inr (.inr (.inl ⟨by omega, hm, h3.1, h3.2.1, h3.2.2, h4, if_pos h4⟩))
        · exact .inr (.inr (.inr ⟨by omega, hm, h3.1, h3.2.1, h3.2.2, by simpa using h4, if_neg h4⟩))

/-- Everything DECODE_STATUS can do. -/
theorem decodeStatusCmd_cases (s : State) :
    (s.frameValid = false ∧ decodeStatusCmd s = (s.setStatusValid false).finish .noFrame) ∨
    (s.frameValid = true ∧ hasStatusSignature s = false ∧
      decodeStatusCmd s = (s.setStatusValid false).finish .wrongType) ∨
    (s.frameValid = true ∧ hasStatusSignature s = true ∧
      decodeStatusCmd s = ((extractFields s.rxLen.toNat s).setStatusValid true).finish .ok) := by
  unfold decodeStatusCmd
  by_cases h1 : s.frameValid = false
  · exact .inl ⟨h1, if_pos h1⟩
  · rw [if_neg h1]
    by_cases h2 : hasStatusSignature s = false
    · exact .inr (.inl ⟨by simpa using h1, h2, if_pos h2⟩)
    · exact .inr (.inr ⟨by simpa using h1, by simpa using h2, if_neg h2⟩)

/-- Everything CHECKSUM can do. -/
theorem checksumCmd_cases (s : State) :
    (s.rxOvf = true ∧ checksumCmd s = (s.setCksums 0x00#8 s.cksumRx).finish .rxOverflow) ∨
    (s.rxOvf = false ∧
      checksumCmd s = (s.setCksums (checksumFn s.params (s.rxbuf.bytes s.rxLen.toNat)) s.cksumRx).finish .ok) := by
  unfold checksumCmd
  cases h : s.rxOvf <;> simp

/-- Everything ENCODE_CONTROL can do. -/
theorem encodeControlCmd_cases (s : State) :
    (s.txPending = true ∧ encodeControlCmd s = s.finish .txBusy) ∨
    (s.txPending = false ∧
      encodeControlCmd s = (s.setTx (writeFrame s.params s.txbuf (controlBody s)) 40#8 0#8).finish .ok) := by
  unfold encodeControlCmd
  cases h : s.txPending <;> simp

/-- Everything ENCODE_QUERY can do. -/
theorem encodeQueryCmd_cases (s : State) :
    (s.txPending = true ∧ encodeQueryCmd s = s.finish .txBusy) ∨
    (s.txPending = false ∧
      encodeQueryCmd s = (s.setTx (writeFrame s.params s.txbuf queryHead) 5#8 0#8).finish .ok) := by
  unfold encodeQueryCmd
  cases h : s.txPending <;> simp

/-! ### Frames in the TX buffer -/

@[simp] theorem length_controlBody (s : State) : (controlBody s).length = 39 := by simp [controlBody, controlHead]

/-- A frame written into a buffer: its bytes, then their checksum, the rest as before. -/
theorem read_writeFrame (p : Params) (m : Memory) (body : List Byte) (i : Nat) :
    (writeFrame p m body).read i =
      if i < body.length then body.getD i 0#8 else if i = body.length then checksumFn p body else m.read i := by
  unfold writeFrame
  rw [Memory.read_write, Memory.bytes_writeList, Memory.read_writeList]
  rcases Nat.lt_trichotomy i body.length with h | h | h
  · rw [if_neg (by omega), if_pos (by omega), if_pos h]; simp
  · rw [if_pos h, if_neg (by omega), if_pos h]
  · rw [if_neg (by omega), if_neg (by omega), if_neg (by omega), if_neg (by omega)]

theorem wf_writeFrame (p : Params) {m : Memory} (hm : m.wf = true) (body : List Byte) :
    (writeFrame p m body).wf = true := Memory.wf_write (Memory.wf_writeList hm 0 body) _ _

theorem within_writeFrame (p : Params) {n : Nat} {m : Memory} (hm : Memory.within n m = true) {body : List Byte}
    (hb : body.length < n) : Memory.within n (writeFrame p m body) = true :=
  Memory.within_write (Memory.within_writeList hm (by omega)) hb _

/-- The byte at index i of a control frame, head and payload. -/
theorem getD_controlBody (s : State) (i : Nat) :
    (controlBody s).getD i 0#8 = if i < 4 then controlHead.getD i 0#8 else if i < 39 then s.txpay.read (i - 4) else 0#8 := by
  unfold controlBody
  rw [List.getD_eq_getElem?_getD, List.getElem?_append]
  have hlen : controlHead.length = 4 := rfl
  rw [hlen]
  by_cases h4 : i < 4
  · rw [if_pos h4, if_pos h4, List.getD_eq_getElem?_getD]
  · rw [if_neg h4, if_neg h4, Memory.getElem?_bytes]
    by_cases h39 : i < 39
    · rw [if_pos (by omega), if_pos h39]; rfl
    · rw [if_neg (by omega), if_neg h39]; rfl

/-! ### The register map -/

/-- The addresses of the register map, by what stands at each. -/
theorem regAt_regAddr (r : Reg)
    (h : match r with | .txpay i => i < 35 | .rxwin i => i < 255 | .txwin i => i < 40 | _ => True) :
    regAt (regAddr r) = some r := by
  cases r with
  | fieldLo k => cases k <;> rfl
  | fieldHi k => cases k <;> rfl
  | txpay i => simp only at h; interval_cases i <;> rfl
  | rxwin i => simp only at h; interval_cases i <;> rfl
  | txwin i => simp only at h; interval_cases i <;> rfl
  | _ => rfl

theorem regAddr_of_regAt {a : Addr} {r : Reg} (h : regAt a = some r) : regAddr r = a := by
  have hlt := a.isLt
  unfold regAt at h
  split at h
  case h_28 n _ _ _ _ _ _ _ _ _ _ _ _ _ _ _ _ _ _ _ _ _ _ _ _ _ _ _ =>
    split at h
    · injection h with h; subst h; simp only [regAddr]; bv_omega
    · split at h
      · injection h with h; subst h; simp only [regAddr]; bv_omega
      · split at h
        · injection h with h; subst h; simp only [regAddr]; bv_omega
        · cases h
  all_goals injection h with h; subst h; simp only [regAddr, FieldId.index]; bv_omega

theorem regAt_cmd {a : Addr} : regAt a = some .cmd ↔ a = 0x000#10 :=
  ⟨fun h => (regAddr_of_regAt h).symm, fun h => by subst h; rfl⟩

theorem regAt_rxData {a : Addr} : regAt a = some .rxData ↔ a = 0x00D#10 :=
  ⟨fun h => (regAddr_of_regAt h).symm, fun h => by subst h; rfl⟩

theorem regAt_txData {a : Addr} : regAt a = some .txData ↔ a = 0x00E#10 :=
  ⟨fun h => (regAddr_of_regAt h).symm, fun h => by subst h; rfl⟩

theorem regAt_txpay {a : Addr} {i : Nat} : regAt a = some (.txpay i) ↔ i < 35 ∧ a.toNat = 0x020 + i := by
  constructor
  · intro h
    unfold regAt at h
    split at h
    all_goals first
      | (injection h with h; exact absurd h (by simp))
      | skip
    split at h
    · injection h with h; injection h with h; omega
    · split at h
      · injection h with h; injection h
      · split at h
        · injection h with h; injection h
        · cases h
  · rintro ⟨hi, ha⟩
    have : a = regAddr (.txpay i) := by simp only [regAddr]; bv_omega
    rw [this]
    exact regAt_regAddr (.txpay i) hi

/-- Everything a host write can do. -/
theorem hostWrite_cases (a : Addr) (d : Byte) (s : State) :
    (a = 0x000#10 ∧ hostWrite a d s = execute d s) ∨
    (a = 0x00D#10 ∧ hostWrite a d s = rxPush d s) ∨
    (∃ i, i < 35 ∧ a.toNat = 0x020 + i ∧ hostWrite a d s = s.setTxpay (s.txpay.write i d)) ∨
    (a ≠ 0x000#10 ∧ a ≠ 0x00D#10 ∧ ¬ (0x020 ≤ a.toNat ∧ a.toNat ≤ 0x042) ∧ hostWrite a d s = s) := by
  unfold hostWrite
  split
  · rename_i h; exact .inl ⟨regAt_cmd.mp h, rfl⟩
  · rename_i h; exact .inr (.inl ⟨regAt_rxData.mp h, rfl⟩)
  · rename_i i h; exact .inr (.inr (.inl ⟨i, (regAt_txpay.mp h).1, (regAt_txpay.mp h).2, rfl⟩))
  · rename_i h1 h2 h3
    refine .inr (.inr (.inr ⟨fun h => h1 (regAt_cmd.mpr h), fun h => h2 (regAt_rxData.mpr h), fun h => ?_, rfl⟩))
    exact h3 (a.toNat - 0x020) (regAt_txpay.mpr ⟨by omega, by omega⟩)

/-- Everything a host read can do to the state. -/
theorem hostRead_cases (a : Addr) (s : State) :
    (a = 0x00E#10 ∧ hostRead a s = txPop s) ∨ (a ≠ 0x00E#10 ∧ hostRead a s = (hostByte a s, s)) := by
  unfold hostRead
  by_cases h : regAt a = some .txData
  · exact .inl ⟨regAt_txData.mp h, if_pos h⟩
  · exact .inr ⟨fun ha => h (regAt_txData.mpr ha), if_neg h⟩

end Sys2Proof.Machine
end

