-- ==== Sys2Proof/Laws/Exec.lean ====
section
/-! SUPPORT. exec as a function of the state, running several instructions, and everything a step can do. -/

namespace Sys2Proof.Machine

/-- The state an instruction leads to; every instruction leads to one (60_exceptions.md R106, R120). -/
def effect (s : State) : Instr → State
  | .nop => nopCmd s
  | .decode => decodeCmd s
  | .decodeStatus => decodeStatusCmd s
  | .extract => extractCmd s
  | .checksum => checksumCmd s
  | .encodeControl => encodeControlCmd s
  | .encodeQuery => encodeQueryCmd s
  | .rxClear => rxClearCmd s
  | .txClear => txClearCmd s
  | .illegalCmd _ => illegalCmd s
  | .wrRxData b => rxPush b s
  | .rdTxData => (txPop s).2.logRead (txPop s).1
  | .wr a d => hostWrite a d s
  | .rd a => (hostRead a s).2.logRead (hostRead a s).1
  | .serRx b => rxPush b s
  | .serTx => sinkPop s

/-- exec always answers the state of `effect`. -/
theorem exec_eq_effect (i : Instr) (s : State) : exec i s = .next (effect s i) := by cases i <;> rfl

theorem exec_next_iff {i : Instr} {s t : State} : exec i s = .next t ↔ effect s i = t := by
  rw [exec_eq_effect]
  exact ⟨fun h => by injection h, fun h => by rw [h]⟩

/-- The commands and the instructions that run them. -/
theorem effect_cmd (s : State) (c : Cmd) : effect s c.instr = runCmd s c := by cases c <;> rfl

theorem effect_decodeCode (s : State) (d : Byte) : effect s (decodeCode d) = execute d s := by
  unfold decodeCode execute
  cases h : cmdOfCode d with
  | none => rfl
  | some c => exact effect_cmd s c

/-- Everything an instruction can do, in eight kinds: run a command, an illegal code, push a byte, pop one for the host, read
a register, write TXPAY, be ignored, pop one for the sink. -/
theorem effect_cases (s : State) (i : Instr) :
    (∃ c, instrCommand i = some c ∧ instrWritesCmd i = true ∧ pushedByte i = none ∧ effect s i = runCmd s c) ∨
    (instrCommand i = none ∧ instrWritesCmd i = true ∧ pushedByte i = none ∧ effect s i = illegalCmd s) ∨
    (instrCommand i = none ∧ instrWritesCmd i = false ∧
      ((∃ b, pushedByte i = some b ∧ effect s i = rxPush b s) ∨
        (pushedByte i = none ∧ effect s i = (txPop s).2.logRead (txPop s).1) ∨
        (∃ b, pushedByte i = none ∧ effect s i = s.logRead b) ∨
        (∃ a d j, i = .wr a d ∧ pushedByte i = none ∧ j < 35 ∧ a.toNat = 0x020 + j ∧
          effect s i = s.setTxpay (s.txpay.write j d)) ∨
        (pushedByte i = none ∧ effect s i = s) ∨
        (pushedByte i = none ∧ effect s i = sinkPop s))) := by
  cases i with
  | nop => exact .inl ⟨.nop, rfl, rfl, rfl, rfl⟩
  | decode => exact .inl ⟨.decode, rfl, rfl, rfl, rfl⟩
  | decodeStatus => exact .inl ⟨.decodeStatus, rfl, rfl, rfl, rfl⟩
  | extract => exact .inl ⟨.extract, rfl, rfl, rfl, rfl⟩
  | checksum => exact .inl ⟨.checksum, rfl, rfl, rfl, rfl⟩
  | encodeControl => exact .inl ⟨.encodeControl, rfl, rfl, rfl, rfl⟩
  | encodeQuery => exact .inl ⟨.encodeQuery, rfl, rfl, rfl, rfl⟩
  | rxClear => exact .inl ⟨.rxClear, rfl, rfl, rfl, rfl⟩
  | txClear => exact .inl ⟨.txClear, rfl, rfl, rfl, rfl⟩
  | illegalCmd code => exact .inr (.inl ⟨rfl, rfl, rfl, rfl⟩)
  | wrRxData b => exact .inr (.inr ⟨rfl, rfl, .inl ⟨b, rfl, rfl⟩⟩)
  | rdTxData => exact .inr (.inr ⟨rfl, rfl, .inr (.inl ⟨rfl, rfl⟩)⟩)
  | rd a =>
    refine .inr (.inr ⟨rfl, rfl, ?_⟩)
    rcases hostRead_cases a s with ⟨_, h⟩ | ⟨_, h⟩
    · exact .inr (.inl ⟨rfl, by rw [effect, h]⟩)
    · exact .inr (.inr (.inl ⟨hostByte a s, rfl, by rw [effect, h]⟩))
  | serRx b => exact .inr (.inr ⟨rfl, rfl, .inl ⟨b, rfl, rfl⟩⟩)
  | serTx => exact .inr (.inr ⟨rfl, rfl, .inr (.inr (.inr (.inr (.inr ⟨rfl, rfl⟩))))⟩)
  | wr a d =>
    rcases hostWrite_cases a d s with ⟨ha, h⟩ | ⟨ha, h⟩ | ⟨j, hj, ha, h⟩ | ⟨h0, hd, _, h⟩
    · subst ha
      cases hc : cmdOfCode d with
      | none => exact .inr (.inl ⟨hc, rfl, rfl, by rw [effect, h, execute, hc]⟩)
      | some c => exact .inl ⟨c, hc, rfl, rfl, by rw [effect, h, execute, hc]⟩
    · subst ha
      exact .inr (.inr ⟨rfl, rfl, .inl ⟨d, rfl, h⟩⟩)
    · have h0 : a ≠ 0x000#10 := by rintro rfl; simp at ha; omega
      have hd : a ≠ 0x00D#10 := by rintro rfl; simp at ha; omega
      exact .inr (.inr ⟨if_neg h0, by simp [instrWritesCmd, h0],
        .inr (.inr (.inr (.inl ⟨a, d, j, rfl, if_neg hd, hj, ha, h⟩)))⟩)
    · exact .inr (.inr ⟨if_neg h0, by simp [instrWritesCmd, h0],
        .inr (.inr (.inr (.inr (.inl ⟨if_neg hd, h⟩))))⟩)

/-! ### Several instructions -/

@[simp] theorem execAll_nil (s : State) : execAll [] s = .next s := rfl

@[simp] theorem execAll_cons (i : Instr) (is : List Instr) (s : State) :
    execAll (i :: is) s = execAll is (effect s i) := by
  rw [execAll, exec_eq_effect]

theorem execAll_append (is js : List Instr) (s : State) :
    ∃ t, execAll is s = .next t ∧ execAll (is ++ js) s = execAll js t := by
  induction is generalizing s with
  | nil => exact ⟨s, rfl, rfl⟩
  | cons i is ih => simpa using ih (effect s i)

/-! ### A step -/

/-- Everything a step that answers a next state can do: wait, reset, or run the decoded instruction. -/
theorem step_cases {s t : State} (h : step s = .next t) :
    s.params.admissible = true ∧
      ((s.pending = [] ∧ t = s) ∨
        (∃ rest, s.pending = .reset :: rest ∧ t = resetEvent (s.setPending rest)) ∨
        (∃ p i rest, s.pending = .item p :: rest ∧ decode p = .instr i ∧ t = effect (s.setPending rest) i)) := by
  unfold step at h
  split at h
  · rename_i hp
    refine ⟨hp, ?_⟩
    split at h
    · rename_i hpend; injection h with h; exact .inl ⟨hpend, h.symm⟩
    · rename_i rest hpend; injection h with h; exact .inr (.inl ⟨rest, hpend, h.symm⟩)
    · rename_i p rest hpend
      split at h
      · rename_i i hi
        exact .inr (.inr ⟨p, i, rest, hpend, hi, (exec_next_iff.mp h).symm⟩)
      · cases h
  · cases h

end Sys2Proof.Machine
end

