-- ==== Sys2Proof/Laws/PerInstr.lean ====
section
/-! SUPPORT. The per-instruction law family TableRow: the first row of spec/opcode_table.json that the word of a
well-formed host instruction fits is the row that bears its mnemonic (30_encoding.md R63). -/

namespace Sys2Proof.Laws.TableRow

/-- The first row an encoded word fits is the instruction's own; the serial events are no words. -/
def Statement (i : Instr) : Prop :=
  ∀ w, encode i = .word w → i.wf = true → (firstRow w).map TableRow.mnemonic = some i.mnemonic

/-- The word of each row of the table with nothing left open. -/
theorem table_words :
    (0x80000#20 = hostWord true 0x000#10 0x00#8) ∧ (0x80001#20 = hostWord true 0x000#10 0x01#8) ∧
    (0x80002#20 = hostWord true 0x000#10 0x02#8) ∧ (0x80003#20 = hostWord true 0x000#10 0x03#8) ∧
    (0x80004#20 = hostWord true 0x000#10 0x04#8) ∧ (0x80010#20 = hostWord true 0x000#10 0x10#8) ∧
    (0x80011#20 = hostWord true 0x000#10 0x11#8) ∧ (0x80020#20 = hostWord true 0x000#10 0x20#8) ∧
    (0x80021#20 = hostWord true 0x000#10 0x21#8) ∧ (0x80D00#20 = hostWord true 0x00D#10 0x00#8) ∧
    (0x00E00#20 = hostWord false 0x00E#10 0x00#8) ∧ (0x00000#20 = hostWord false 0x000#10 0x00#8) := by decide

/-- The first row a word fits, from its fields: the table's rows one after another. -/
theorem firstRow_hostWord (w : Bool) (a : Addr) (d : Byte) :
    (firstRow (hostWord w a d)).map TableRow.mnemonic =
      if w then
        if a = 0x000#10 then
          if d = 0x00#8 then some "NOP" else if d = 0x01#8 then some "DECODE" else if d = 0x02#8 then some "DECODE_STATUS"
          else if d = 0x03#8 then some "EXTRACT" else if d = 0x04#8 then some "CHECKSUM"
          else if d = 0x10#8 then some "ENCODE_CONTROL" else if d = 0x11#8 then some "ENCODE_QUERY"
          else if d = 0x20#8 then some "RX_CLEAR" else if d = 0x21#8 then some "TX_CLEAR" else some "ILLEGAL_CMD"
        else if a = 0x00D#10 then some "WR_RX_DATA" else some "WR"
      else if d = 0x00#8 then if a = 0x00E#10 then some "RD_TX_DATA" else some "RD" else none := by
  obtain ⟨h0, h1, h2, h3, h4, h5, h6, h7, h8, h9, h10, h11⟩ := table_words
  unfold firstRow opcodeTable
  simp only [List.find?_cons, List.find?_nil, TableRow.fits, TWord.mask_all, TWord.mask_addr, TWord.mask_write,
    TWord.mask_read, h0, h1, h2, h3, h4, h5, h6, h7, h8, h9, h10, h11, beq_eq_decide, TWord.hostWord_inj]
  cases w <;> by_cases ha : a = 0x000#10 <;> by_cases hd : a = 0x00D#10 <;> by_cases he : a = 0x00E#10 <;>
    simp_all <;> split_ifs <;> simp_all

theorem nop : Statement .nop := by intro w h _; cases h; decide
theorem decode : Statement .decode := by intro w h _; cases h; decide
theorem decodeStatus : Statement .decodeStatus := by intro w h _; cases h; decide
theorem extract : Statement .extract := by intro w h _; cases h; decide
theorem checksum : Statement .checksum := by intro w h _; cases h; decide
theorem encodeControl : Statement .encodeControl := by intro w h _; cases h; decide
theorem encodeQuery : Statement .encodeQuery := by intro w h _; cases h; decide
theorem rxClear : Statement .rxClear := by intro w h _; cases h; decide
theorem txClear : Statement .txClear := by intro w h _; cases h; decide
theorem illegalCmd (code : Byte) : Statement (.illegalCmd code) := by
  intro w h hwf
  cases h
  simp only [Instr.wf, legalCodes, Bool.not_eq_true', List.contains_eq_mem, List.mem_cons, List.not_mem_nil,
    decide_eq_false_iff_not, not_or, or_false] at hwf
  simp [firstRow_hostWord, hwf, Instr.mnemonic]
theorem wrRxData (b : Byte) : Statement (.wrRxData b) := by
  intro w h _; cases h; simp [firstRow_hostWord, Instr.mnemonic]
theorem rdTxData : Statement .rdTxData := by intro w h _; cases h; decide
theorem wr (a : Addr) (d : Byte) : Statement (.wr a d) := by
  intro w h hwf
  cases h
  simp only [Instr.wf, Bool.and_eq_true, bne_iff_ne] at hwf
  simp [firstRow_hostWord, hwf.1, hwf.2, Instr.mnemonic]
theorem rd (a : Addr) : Statement (.rd a) := by
  intro w h hwf
  cases h
  simp only [Instr.wf, bne_iff_ne] at hwf
  simp [firstRow_hostWord, hwf, Instr.mnemonic]
theorem serRx (b : Byte) : Statement (.serRx b) := by intro w h; cases h
theorem serTx : Statement .serTx := by intro w h; cases h

end Sys2Proof.Laws.TableRow
end

