-- ==== Sys2Proof/Tests/Slice0.lean ====
section
/-! SUPPORT. Tests on fixed values: expected results from spec/95_test_vectors.md (the vector's name in each docstring) and
spec/30_encoding.md, never from the model; and, for every statement with hypotheses, a witness that meets them. -/

namespace Sys2Proof.Tests

open Sys2Proof.Machine

/-! ### Small states -/

/-- The state an outcome leads to; where it leads to none, the reset state with ERR at a value no code has. -/
def resultOf : Machine.Result → State
  | .next t => t
  | .fault _ => State.reset.setErr 0xEE#8
  | .refused _ => State.reset.setErr 0xEE#8

/-- The state after one instruction. -/
def after (i : Instr) (s : State) : State := resultOf (exec i s)

/-- After reset, a read of these bytes. -/
def readOf (bs : List Byte) : State :=
  State.reset.setRead (Memory.writeList [] 0 bs) (BitVec.ofNat 8 bs.length) false

/-- The query frame of L1.1. -/
def queryRead : State := readOf [0x7E#8, 0x7E#8, 0x02#8, 0x02#8, 0x04#8]

/-- The bytes of V-S1 before its checksum byte. -/
def bufS1 : Memory :=
  [(0, 0x7E#8), (1, 0x7E#8), (2, 0xFF#8), (3, 0xE0#8), (16, 0x2A#8), (22, 0x32#8), (25, 0x24#8), (56, 0x50#8),
   (60, 0xE8#8), (61, 0x03#8), (64, 0x2E#8)]

/-- The first n bytes of V-S1, n up to 254, as a read. -/
def readS1 (n : Nat) : State := State.reset.setRead (bufS1.filter (fun c => decide (c.1 < n))) (BitVec.ofNat 8 n) false

/-- V-S1 whole, its checksum byte 0xC8 at index 254. -/
def fullS1 : State := State.reset.setRead (bufS1 ++ [(254, 0xC8#8)]) 255#8 false

/-- V-D11: V-S1 decoded. -/
def heldS1 : State := ((fullS1.acceptFrame).latch 0xFF#8 0xE0#8 255#8).setCksums 0xC8#8 0xC8#8

/-- The fields of V-S1. -/
def fieldsS1 : Fields := ⟨0x002A#16, 0x03E8#16, 0x0032#16, 0x0050#16, 0x0014#16, 0x001E#16⟩

/-- V-D1: the query frame decoded. -/
def heldQuery : State := ((queryRead.acceptFrame).latch 0x02#8 0x02#8 5#8).setCksums 0x04#8 0x04#8

/-- V-E6's start: a query frame built, one byte of it taken. -/
def sendingQuery : State := State.reset.setTx [(0, 0x7E#8), (1, 0x7E#8), (2, 0x02#8), (3, 0x02#8), (4, 0x04#8)] 5#8 1#8

/-- V-S1's read, overflowed by one more byte. -/
def overflowed : State := fullS1.setRead fullS1.rxbuf 255#8 true

/-- The state with an item to run. -/
def withItem (p : PortItem) (s : State) : State := s.setPending [.item p]

/-- Parameters with another FIELD_BASE. -/
def base4 : Params := { Params.default with fieldBase := 4 }

/-! ### Well-formedness: an ill-formed term for each check -/

theorem test_wf_illegal_code_has_own_row :
    Instr.wf (.illegalCmd 0x00#8) = false ∧ Instr.wf (.illegalCmd 0x21#8) = false ∧ Instr.wf (.illegalCmd 0x22#8) = true := by
  decide

theorem test_wf_write_of_cmd_has_own_row : Instr.wf (.wr 0x000#10 0x01#8) = false := by decide

theorem test_wf_write_of_rx_data_has_own_row : Instr.wf (.wr 0x00D#10 0x7E#8) = false := by decide

theorem test_wf_read_of_tx_data_has_own_row : Instr.wf (.rd 0x00E#10) = false ∧ Instr.wf (.rd 0x00D#10) = true := by decide

/-! ### Decoding: words written out bit by bit from 30_encoding.md R62 and R60 (W, 0, ADDR, DATA) -/

theorem test_decode_nop : decode (.word 0b1_0_0000000000_00000000#20) = .instr .nop := by decide

theorem test_decode_decode : decode (.word 0b1_0_0000000000_00000001#20) = .instr .decode := by decide

theorem test_decode_decode_status : decode (.word 0b1_0_0000000000_00000010#20) = .instr .decodeStatus := by decide

theorem test_decode_extract : decode (.word 0b1_0_0000000000_00000011#20) = .instr .extract := by decide

theorem test_decode_checksum : decode (.word 0b1_0_0000000000_00000100#20) = .instr .checksum := by decide

theorem test_decode_encode_control : decode (.word 0b1_0_0000000000_00010000#20) = .instr .encodeControl := by decide

theorem test_decode_encode_query : decode (.word 0b1_0_0000000000_00010001#20) = .instr .encodeQuery := by decide

theorem test_decode_rx_clear : decode (.word 0b1_0_0000000000_00100000#20) = .instr .rxClear := by decide

theorem test_decode_tx_clear : decode (.word 0b1_0_0000000000_00100001#20) = .instr .txClear := by decide

/-- P6 line 19. -/
theorem test_decode_illegal : decode (.word 0b1_0_0000000000_11111111#20) = .instr (.illegalCmd 0xFF#8) := by decide

/-- P1 line 4. -/
theorem test_decode_wr_rx_data : decode (.word 0b1_0_0000001101_01111110#20) = .instr (.wrRxData 0x7E#8) := by decide

/-- P1 line 3. -/
theorem test_decode_rd_tx_data : decode (.word 0b0_0_0000001110_00000000#20) = .instr .rdTxData := by decide

/-- P6 line 32 and P3 line 3. -/
theorem test_decode_wr : decode (.word 0b1_0_1111111111_01010101#20) = .instr (.wr 0x3FF#10 0x55#8) ∧
    decode (.word 0x8427E#20) = .instr (.wr 0x042#10 0x7E#8) := by decide

/-- P3 line 7. -/
theorem test_decode_rd : decode (.word 0b0_0_1000100111_00000000#20) = .instr (.rd 0x227#10) := by decide

theorem test_decode_serial : decode (.rxByte 0x7E#8) = .instr (.serRx 0x7E#8) ∧ decode .txTake = .instr .serTx := by decide

/-- 30_encoding.md R63. -/
theorem test_decode_refused : decode (.word 0b1_1_0000000000_00000000#20) = .reject .reservedBit18 ∧
    decode (.word 0b0_0_0000000001_00000001#20) = .reject .readWithData := by decide

theorem test_table_words : decodeTableWord 24 0x80002 = some .decodeStatus ∧ decodeTableWord 8 0x7E = some (.serRx 0x7E#8) ∧
    decodeTableWord 24 0x180002 = none := by decide

theorem test_encode : encode (.wr 0x042#10 0x7E#8) = .word 0x8427E#20 ∧ encode (.rd 0x227#10) = .word 0x22700#20 := by decide

/-! ### Buffers -/

/-- Writing 0x00 removes the cell; a write keeps the rising order. -/
theorem test_memory_canonical : Memory.write [(1, 0x05#8), (4, 0x06#8)] 4 0x00#8 = [(1, 0x05#8)] ∧
    Memory.write [(1, 0x05#8), (4, 0x06#8)] 2 0x07#8 = [(1, 0x05#8), (2, 0x07#8), (4, 0x06#8)] := by decide

theorem test_reset_buffers_wf : State.reset.rxbuf.wf = true ∧ State.reset.txbuf.wf = true ∧ State.reset.txpay.wf = true := by
  decide

/-! ### One step each -/

/-- V-B1. -/
theorem test_nop_keeps_err : (after .nop (State.reset.setErr 0x03#8)).err = 0x03#8 := by decide

/-- V-D1: ERR, STAT, latches. -/
theorem test_decode_query : (after .decode queryRead).err = 0x00#8 ∧ (after .decode queryRead).stat = 0x13#8 ∧
    (after .decode queryRead).frameLen = 5#8 ∧ (after .decode queryRead).cksumRx = 0x04#8 := by decide

/-- V-D3: the mismatch, with both bytes recorded. -/
theorem test_decode_mismatch :
    let t := after .decode (readOf [0x7E#8, 0x7E#8, 0x02#8, 0x02#8, 0x05#8])
    t.err = 0x03#8 ∧ t.stat = 0x10#8 ∧ t.cksumCalc = 0x04#8 ∧ t.cksumRx = 0x05#8 := by decide

/-- V-DS5. -/
theorem test_decode_status_s1 : (after .decodeStatus heldS1).err = 0x00#8 ∧ (after .decodeStatus heldS1).stat = 0x17#8 ∧
    (after .decodeStatus heldS1).fields = fieldsS1 ∧ (after .decodeStatus heldS1).fvalid = 0b111111#6 := by decide

/-- V-DS2: a query frame held. -/
theorem test_decode_status_wrong_type : (after .decodeStatus heldQuery).err = 0x04#8 ∧
    (after .decodeStatus heldQuery).stat = 0x13#8 := by decide

/-- V-F boundary: 61 bytes. -/
theorem test_extract_boundary : (after .extract (readS1 61)).fvalid = 0b011101#6 ∧ (after .extract (readS1 61)).err = 0x05#8 ∧
    (after .extract (readS1 61)).fields.lp = 0x0000#16 := by decide

/-- V-F3: FIELD_BASE = 4, 64 bytes. -/
theorem test_extract_base4 :
    let t := after .extract { readS1 64 with params := base4 }
    t.err = 0x05#8 ∧ t.fvalid = 0b011101#6 ∧
      t.fields = ⟨0x0000#16, 0x0000#16, 0x0000#16, 0x00E8#16, 0xFFF0#16, 0x0000#16⟩ := by decide

/-- V-K4: the carry is discarded. -/
theorem test_checksum_carry :
    (after .checksum (readOf [0x7E#8, 0x7E#8, 0xFF#8, 0xFF#8])).cksumCalc = 0xFE#8 := by decide

/-- V-K5, after a decode: CKSUM_RX and STAT stay. -/
theorem test_checksum_after_decode : (after .checksum heldQuery).cksumCalc = 0x08#8 ∧
    (after .checksum heldQuery).cksumRx = 0x04#8 ∧ (after .checksum heldQuery).stat = 0x13#8 := by decide

/-- V-E4 (P3): the checksum, and a payload byte at its end. -/
theorem test_encode_control :
    let t := after .encodeControl (State.reset.setTxpay [(0, 0x01#8), (1, 0x02#8), (34, 0x7E#8)])
    t.txbuf.read 39 = 0xA7#8 ∧ t.txbuf.read 38 = 0x7E#8 ∧ t.txLen = 40#8 ∧ t.stat = 0x20#8 := by decide

/-- V-E7: busy, TXBUF unchanged. -/
theorem test_encode_control_busy : (after .encodeControl sendingQuery).err = 0x07#8 ∧
    (after .encodeControl sendingQuery).txbuf = sendingQuery.txbuf := by decide

/-- V-E5. -/
theorem test_encode_query : (after .encodeQuery State.reset).txbuf.bytes 5 = [0x7E#8, 0x7E#8, 0x02#8, 0x02#8, 0x04#8] ∧
    (after .encodeQuery State.reset).txLen = 5#8 ∧ (after .encodeQuery State.reset).stat = 0x20#8 := by decide

/-- V-E6: busy, the pointer stays. -/
theorem test_encode_query_busy : (after .encodeQuery sendingQuery).err = 0x07#8 ∧
    (after .encodeQuery sendingQuery).txPtr = 1#8 := by decide

/-- V-B2: empty, the stale byte stays. -/
theorem test_rx_clear : (after .rxClear overflowed).rxLen = 0#8 ∧ (after .rxClear overflowed).stat = 0x00#8 ∧
    (after .rxClear overflowed).rxbuf.read 254 = 0xC8#8 := by decide

/-- V-B3. -/
theorem test_tx_clear : (after .txClear sendingQuery).txLen = 0#8 ∧ (after .txClear sendingQuery).stat = 0x00#8 ∧
    (after .txClear sendingQuery).txbuf.read 0 = 0x7E#8 := by decide

/-- V-B4. -/
theorem test_illegal_cmd : exec (.illegalCmd 0xFF#8) heldQuery = .next (heldQuery.setErr 0x09#8) := rfl

/-- V-RX8: a push after DECODE. -/
theorem test_wr_rx_data : (after (.wrRxData 0x00#8) heldQuery).rxLen = 6#8 ∧ (after (.wrRxData 0x00#8) heldQuery).stat = 0x00#8 ∧
    (after (.wrRxData 0x00#8) heldQuery).frameType = 0x02#8 := by decide

/-- V-RX7: the 256th byte is dropped. -/
theorem test_ser_rx_overflow : (after (.serRx 0x55#8) heldS1).rxLen = 255#8 ∧ (after (.serRx 0x55#8) heldS1).stat = 0x08#8 ∧
    (after (.serRx 0x55#8) heldS1).rxbuf = heldS1.rxbuf := by decide

/-- V-RX3: the fifth byte completes the frame. -/
theorem test_ser_rx_completes : (after (.serRx 0x04#8) (readOf [0x7E#8, 0x7E#8, 0x02#8, 0x02#8])).stat = 0x10#8 := by decide

/-- V-E9: the second pop. -/
theorem test_rd_tx_data : (after .rdTxData sendingQuery).reads = [0x7E#8] ∧ (after .rdTxData sendingQuery).txPtr = 2#8 := by
  decide

/-- V-E10: nothing pending. -/
theorem test_rd_tx_data_empty : (after .rdTxData State.reset).reads = [0x00#8] ∧ (after .rdTxData State.reset).txPtr = 0#8 := by
  decide

/-- V-H6 and V-H7: the last TXPAY byte, and the address after it. -/
theorem test_wr_txpay : (after (.wr 0x042#10 0x7E#8) State.reset).txpay = [(34, 0x7E#8)] ∧
    after (.wr 0x043#10 0x11#8) State.reset = State.reset := by decide

/-- V-H4. -/
theorem test_wr_err_ignored : (after (.wr 0x001#10 0x55#8) State.reset).err = 0x00#8 := by decide

/-- V-F, host reads of a field register: OCT_LO, OCT_HI. -/
theorem test_rd_field :
    let s := State.reset.setFields ⟨0#16, 0#16, 0#16, 0#16, 0xFFF0#16, 0#16⟩ 0#6
    (after (.rd 0x018#10) s).reads = [0xF0#8] ∧ (after (.rd 0x019#10) s).reads = [0xFF#8] := by decide

/-- P4 line 13 and V-H9. -/
theorem test_rd_derived : (after (.rd 0x004#10) (readS1 4)).reads = [0xFF#8] ∧
    (after (.rd 0x00A#10) (State.reset.setFields fieldsS1 0b111111#6)).reads = [0x3F#8] := by decide

/-- P4 lines 2 to 6. -/
theorem test_ser_tx : (after .serTx sendingQuery).line = [0x7E#8] ∧ (after .serTx sendingQuery).txPtr = 2#8 := by decide

/-- V-E11: the sink has no step. -/
theorem test_ser_tx_empty : after .serTx State.reset = State.reset := by decide

/-- V-R: reset during a frame. -/
theorem test_reset_event : (resultOf (step ((readS1 100).setPending [.reset]))).rxLen = 0#8 ∧
    (resultOf (step ((readS1 100).setPending [.reset]))).rxbuf = [] := by decide

theorem test_step_runs_placed_word : (resultOf (step (queryRead.withFetchWord 24 0x80001))).err = 0x00#8 ∧
    (resultOf (step (queryRead.withFetchWord 24 0x80001))).frameValid = true := by decide

/-! ### Witnesses: states and operands that meet the hypotheses of the statements, clause by clause -/

/-- DecodeEncodeRoundTrip, at the ends of the operand ranges. -/
theorem test_witness_DecodeEncodeRoundTrip : Instr.wf (.illegalCmd 0x05#8) = true ∧ Instr.wf (.illegalCmd 0xFF#8) = true ∧
    Instr.wf (.wr 0x001#10 0xFF#8) = true ∧ Instr.wf (.wr 0x3FF#10 0x00#8) = true ∧ Instr.wf (.rd 0x000#10) = true ∧
    Instr.wf (.rd 0x3FF#10) = true ∧ Instr.wf .nop = true ∧ Instr.wf (.serRx 0x00#8) = true ∧ Instr.wf .serTx = true := by
  decide

/-- EncodeDecodeRoundTrip, RowsAgreeWithTransactions: words that decode, a write and a read. -/
theorem test_witness_EncodeDecodeRoundTrip : decode (.word 0xBFFFF#20) = .instr (.wr 0x3FF#10 0xFF#8) ∧
    (0xBFFFF#20).getLsbD 19 = true ∧ decode (.word 0x00E00#20) = .instr .rdTxData ∧ (0x00E00#20).getLsbD 19 = false := by decide

/-- ListingDecoderFollowsTable: a word for each clause. -/
theorem test_witness_ListingDecoderFollowsTable : (0x40000#20).getLsbD 18 = true ∧
    ((0x000FF#20).getLsbD 18 = false ∧ (0x000FF#20).getLsbD 19 = false ∧ (0x000FF#20).extractLsb' 0 8 ≠ 0x00#8) ∧
    ((0x800FF#20).getLsbD 18 = false ∧ (0x800FF#20).getLsbD 19 = true) ∧
    ((0x3FF00#20).getLsbD 18 = false ∧ (0x3FF00#20).extractLsb' 0 8 = 0x00#8) ∧
    decode (.word 0xFFFFF#20) = .reject .reservedBit18 := by decide

/-- CommandCodes: the ends of the three ranges of illegal codes. -/
theorem test_witness_CommandCodes : ∀ d ∈ [0x05#8, 0x0F#8, 0x12#8, 0x1F#8, 0x22#8, 0xFF#8],
    (0x05 ≤ d.toNat ∧ d.toNat ≤ 0x0F) ∨ (0x12 ≤ d.toNat ∧ d.toNat ≤ 0x1F) ∨ 0x22 ≤ d.toNat := by decide

/-- StepRunsDecodedInstruction: an item that decodes, and a table word. -/
theorem test_witness_StepRunsDecodedInstruction : (withItem (.word 0x80001#20) queryRead).params.admissible = true ∧
    (withItem (.word 0x80001#20) queryRead).pending = .item (.word 0x80001#20) :: [] ∧
    decode (.word 0x80001#20) = .instr .decode ∧ decodeTableWord 24 0x80001 = some .decode := by decide

/-- StepRefusesByName: both refused words, parameters outside their sets, and nothing pending. -/
theorem test_witness_StepRefusesByName :
    ((withItem (.word 0xFFFFF#20) State.reset).pending = .item (.word 0xFFFFF#20) :: [] ∧ (0xFFFFF#20).getLsbD 18 = true) ∧
    ((withItem (.word 0x00101#20) State.reset).pending = .item (.word 0x00101#20) :: [] ∧
      (0x00101#20).getLsbD 18 = false ∧ (0x00101#20).getLsbD 19 = false ∧ (0x00101#20).extractLsb' 0 8 ≠ 0x00#8) ∧
    { State.reset with params := { Params.default with fieldBase := 1 } }.params.admissible = false ∧
    (State.reset.params.admissible = true ∧ State.reset.pending = []) := by decide

/-- ResetSetsEveryElement: a state with the reset event next. -/
theorem test_witness_ResetSetsEveryElement : (heldQuery.setPending [.reset]).params.admissible = true ∧
    (heldQuery.setPending [.reset]).pending = .reset :: [] := by decide

/-- The invariant holds where a frame is held and one is being sent: StepKeepsInvariants, DecodeStatusFindsEveryField. -/
theorem test_inv_heldQuery : (heldQuery.setTx sendingQuery.txbuf 5#8 1#8).Inv := by
  constructor <;> decide

/-- The invariant holds where V-S1 is held and its fields are read out. -/
theorem test_inv_heldS1 : heldS1.Inv := by
  constructor <;> decide +kernel

/-- StepKeepsInvariants, EveryInstructionCompletes: a step from such a state. -/
theorem test_witness_StepKeepsInvariants :
    ∃ t, heldS1.Inv ∧ step (heldS1.withFetchWord 24 0x80002) = .next t ∧ t.statusValid = true :=
  ⟨_, test_inv_heldS1, rfl, by decide⟩

/-- ReachableStatesMeetInvariants: a state other than reset that is reachable, under other parameters. -/
theorem test_witness_ReachableStatesMeetInvariants :
    Reachable (({ State.reset with params := base4 } : State).setPending [.item (.rxByte 0x7E#8)]) :=
  Reachable.arrive [.item (.rxByte 0x7E#8)] (Reachable.start base4 (by decide))

/-- RxPushEffect: the last byte that fits, and a full read. -/
theorem test_witness_RxPushEffect : (readS1 254).rxLen.toNat = 254 ∧ fullS1.rxLen = 255#8 ∧
    (Instr.serRx 0x01#8 = .serRx 0x01#8 ∨ Instr.serRx 0x01#8 = .wrRxData 0x01#8) := by decide

/-- ReadHoldsPushedBytes, DecodeAnswersForWholeRead: events of every agent, two of them pushes. -/
theorem test_witness_pushes : (∀ i ∈ [Instr.serRx 0x7E#8, .nop, .serTx, .wr 0x00D#10 0x7E#8, .wr 0x000#10 0x21#8, .rdTxData],
    instrCommand i ≠ some .rxClear) ∧
    pushedBytes [.serRx 0x7E#8, .nop, .serTx, .wr 0x00D#10 0x7E#8, .wr 0x000#10 0x21#8, .rdTxData] = [0x7E#8, 0x7E#8] := by
  decide

/-- ReadHoldsPushedBytes, DecodeAnswersForWholeRead, LoopbackRoundTrip and ControlFrameGoesOutWhole: an empty read, nothing
being sent; TX_PTR = TX_LEN after a frame went out. -/
theorem test_witness_empty_read : State.reset.rxLen = 0#8 ∧ State.reset.rxOvf = false ∧
    State.reset.txLen.toNat ≤ State.reset.txPtr.toNat ∧
    (sendingQuery.setTx sendingQuery.txbuf 5#8 5#8).txLen.toNat ≤ (sendingQuery.setTx sendingQuery.txbuf 5#8 5#8).txPtr.toNat := by
  decide

/-- DecodeReportsFirstFailure, BAD_MARKER: each reason alone. -/
theorem test_witness_Decode_bad_marker : (readOf [0x7E#8]).rxLen.toNat < 2 ∧ (readOf [0x7F#8, 0x7E#8]).rxbuf.read 0 ≠ 0x7E#8 ∧
    (readOf [0x7E#8, 0x7F#8]).rxbuf.read 1 ≠ 0x7E#8 := by decide

/-- DecodeReportsFirstFailure, BAD_LENGTH: two bytes, an overflow, an unknown type, a wrong length. -/
theorem test_witness_Decode_bad_length :
    (2 ≤ (readOf [0x7E#8, 0x7E#8]).rxLen.toNat ∧ (readOf [0x7E#8, 0x7E#8]).rxbuf.read 0 = 0x7E#8 ∧
      (readOf [0x7E#8, 0x7E#8]).rxbuf.read 1 = 0x7E#8 ∧ (readOf [0x7E#8, 0x7E#8]).rxLen.toNat < 3) ∧
    (2 ≤ overflowed.rxLen.toNat ∧ overflowed.rxbuf.read 0 = 0x7E#8 ∧ overflowed.rxbuf.read 1 = 0x7E#8 ∧
      overflowed.rxOvf = true) ∧
    (2 ≤ (readOf [0x7E#8, 0x7E#8, 0x03#8]).rxLen.toNat ∧ (readOf [0x7E#8, 0x7E#8, 0x03#8]).rxbuf.read 0 = 0x7E#8 ∧
      (readOf [0x7E#8, 0x7E#8, 0x03#8]).rxbuf.read 1 = 0x7E#8 ∧
      shape ((readOf [0x7E#8, 0x7E#8, 0x03#8]).rxbuf.read 2) = 0#8) ∧
    (2 ≤ (readS1 254).rxLen.toNat ∧ (readS1 254).rxbuf.read 0 = 0x7E#8 ∧ (readS1 254).rxbuf.read 1 = 0x7E#8 ∧
      (readS1 254).rxLen.toNat ≠ (shape ((readS1 254).rxbuf.read 2)).toNat) := by decide

/-- DecodeReportsFirstFailure, the checksum compared: equal, and not. -/
theorem test_witness_Decode_checksum : ∀ b ∈ [0x04#8, 0x05#8],
    let s := readOf [0x7E#8, 0x7E#8, 0x02#8, 0x02#8, b]
    3 ≤ s.rxLen.toNat ∧ s.rxbuf.read 0 = 0x7E#8 ∧ s.rxbuf.read 1 = 0x7E#8 ∧ s.rxOvf = false ∧
      shape (s.rxbuf.read 2) ≠ 0#8 ∧ s.rxLen.toNat = (shape (s.rxbuf.read 2)).toNat ∧
      (checksumFn s.params (s.rxbuf.bytes (s.rxLen.toNat - 1)) = s.rxbuf.read (s.rxLen.toNat - 1) ↔ b = 0x04#8) := by decide

/-- ShapeTable: a type with no shape. -/
theorem test_witness_ShapeTable : (0x03#8 : Byte) ≠ 0x02#8 ∧ (0x03#8 : Byte) ≠ 0xFF#8 ∧ (0x03#8 : Byte) ≠ 0x25#8 := by decide

/-- DecodeTwiceIsDecodeOnce, NoFrameAcceptedUnverified: a DECODE that accepts a frame. -/
theorem test_witness_NoFrameAcceptedUnverified :
    ∃ t, exec .decode queryRead = .next t ∧ queryRead.frameValid = false ∧ t.frameValid = true := ⟨_, rfl, by decide, by decide⟩

/-- DecodeStatusEffect: no frame, each wrong byte of the signature, the signature. -/
theorem test_witness_DecodeStatusEffect : State.reset.frameValid = false ∧
    (heldQuery.frameValid = true ∧ heldQuery.rxbuf.read 2 ≠ 0xFF#8) ∧
    ((heldS1.setRead (heldS1.rxbuf.write 3 0x00#8) 255#8 false).frameValid = true ∧
      (heldS1.setRead (heldS1.rxbuf.write 3 0x00#8) 255#8 false).rxbuf.read 3 ≠ 0xE0#8) ∧
    (heldS1.frameValid = true ∧ heldS1.rxbuf.read 2 = 0xFF#8 ∧ heldS1.rxbuf.read 3 = 0xE0#8) := by decide

/-- DecodeStatusFindsEveryField. -/
theorem test_witness_DecodeStatusFindsEveryField : heldS1.Inv ∧ heldS1.params.admissible = true ∧ heldS1.frameValid = true ∧
    heldS1.rxbuf.read 2 = 0xFF#8 ∧ heldS1.rxbuf.read 3 = 0xE0#8 := ⟨test_inv_heldS1, by decide, by decide, by decide, by decide⟩

/-- FieldsDependOnReadAlone: two DECODE_STATUS with an EXTRACT and a CHECKSUM between them; and two states that differ in
their flags. -/
theorem test_witness_FieldsDependOnReadAlone :
    (∃ t u v, (∀ j ∈ [Instr.extract, .checksum], pushedByte j = none ∧ instrCommand j ≠ some .rxClear) ∧
      exec .decodeStatus heldS1 = .next t ∧ execAll [.extract, .checksum] t = .next u ∧ exec .decodeStatus u = .next v ∧
      t.statusValid = true ∧ v.statusValid = true) ∧
    (∃ t t', heldS1.params = fullS1.params ∧ heldS1.rxLen = fullS1.rxLen ∧
      (∀ j, j < heldS1.rxLen.toNat → heldS1.rxbuf.read j = fullS1.rxbuf.read j) ∧
      exec .extract heldS1 = .next t ∧ exec .extract fullS1 = .next t') :=
  ⟨⟨_, _, _, by decide, rfl, rfl, rfl, rfl, rfl⟩, ⟨_, _, rfl, rfl, fun _ _ => rfl, rfl, rfl⟩⟩

/-- FieldQuantities: the shortest read with every field, under both bases. -/
theorem test_witness_FieldQuantities : Params.default.admissible = true ∧ base4.admissible = true ∧
    (readS1 65).params.fieldBase + 65 ≤ (readS1 65).rxLen.toNat ∧ base4.fieldBase + 65 ≤ (readS1 69).rxLen.toNat := by decide

/-- TruncationBoundary, under both bases. -/
theorem test_witness_TruncationBoundary : (readS1 64).params.admissible = true ∧
    (readS1 64).rxLen.toNat = (readS1 64).params.fieldBase + 64 ∧ (readS1 68).rxLen.toNat = base4.fieldBase + 64 := by decide

/-- ChecksumEffect and DefaultChecksumAccumulates. -/
theorem test_witness_ChecksumEffect : overflowed.rxOvf = true ∧ queryRead.rxOvf = false ∧
    Params.default.checksum = .sum8 ∧ [0x5A#8, 0x5A#8].length ≤ 2 ∧ 2 ≤ [0x5A#8, 0x5A#8].length := by decide

/-- EncodeControlEffect, EncodeQueryEffect, TxPopEffect, SinkTurnPassesWithNothingPending: busy, and the last byte just taken. -/
theorem test_witness_tx : sendingQuery.txPtr.toNat < sendingQuery.txLen.toNat ∧
    (after .serTx (sendingQuery.setTx sendingQuery.txbuf 5#8 4#8)).txLen.toNat ≤
      (after .serTx (sendingQuery.setTx sendingQuery.txbuf 5#8 4#8)).txPtr.toNat := by decide

/-- RegisterMapReads: the relation the hypothesis describes, and the ends of the ranges of reserved addresses. -/
theorem test_witness_RegisterMapReads : (∃ gives : Addr → Byte → Prop, ∀ a v, gives a v ↔
      exec (.rd a) State.reset = .next { State.reset with reads := State.reset.reads ++ [v] }) ∧
    (∀ a ∈ [0x00F#10, 0x01C#10, 0x01F#10, 0x043#10, 0x0FF#10, 0x1FF#10, 0x228#10, 0x3FF#10],
      a.toNat = 0x00F ∨ (0x01C ≤ a.toNat ∧ a.toNat ≤ 0x01F) ∨ (0x043 ≤ a.toNat ∧ a.toNat ≤ 0x0FF) ∨ a.toNat = 0x1FF ∨
        0x228 ≤ a.toNat) :=
  ⟨⟨_, fun _ _ => Iff.rfl⟩, by decide⟩

/-- HostWriteEffect: the ends of the TXPAY window, and addresses beside it. -/
theorem test_witness_HostWriteEffect : (∀ a ∈ [0x020#10, 0x042#10], 0x020 ≤ a.toNat ∧ a.toNat ≤ 0x042) ∧
    (∀ a ∈ [0x001#10, 0x01F#10, 0x043#10, 0x3FF#10],
      a ≠ 0x000#10 ∧ a ≠ 0x00D#10 ∧ ¬ (0x020 ≤ a.toNat ∧ a.toNat ≤ 0x042)) := by decide

/-- PseudoExpansions, EncodeControlEffect, LoopbackRoundTrip, RegisterMapReads: the last index of each window; ExtractEffect and
DecodeReportsFirstFailure: the numbers their equations name. -/
theorem test_witness_indexes : 34 < 35 ∧ 254 < 255 ∧ 39 < 40 ∧ (0 = (readS1 64).params.fieldBase ∧ 64 = (readS1 64).rxLen.toNat) ∧
    5 = queryRead.rxLen.toNat := by decide

/-- FieldReadInTwoBytes: events of every agent between the two reads. -/
theorem test_witness_FieldReadInTwoBytes :
    ∀ i ∈ [Instr.serRx 0x01#8, .serTx, .rdTxData, .wrRxData 0x02#8, .wr 0x020#10 0x03#8, .rd 0x012#10],
      instrWritesCmd i = false := by decide

/-- OnlyCommandsWriteErr: an instruction of each kind, and that it completes. -/
theorem test_witness_OnlyCommandsWriteErr : (∃ t, exec (.serRx 0x01#8) heldQuery = .next t) ∧
    instrWritesCmd (.serRx 0x01#8) = false ∧ instrCommand .nop = some .nop ∧ instrWritesCmd .decode = true ∧
    instrCommand .decode ≠ some .nop ∧ instrWritesCmd (.wr 0x000#10 0xFF#8) = true ∧
    instrCommand (.wr 0x000#10 0xFF#8) ≠ some .nop := ⟨⟨_, rfl⟩, by decide⟩

/-- OnlyTheNamedOperationsWrite: instructions that do write each of the five kinds of element. -/
theorem test_witness_OnlyTheNamedOperationsWrite : (after .extract fullS1).fields ≠ fullS1.fields ∧
    (after .decode queryRead).frameType ≠ queryRead.frameType ∧ (after (.serRx 0x01#8) State.reset).rxbuf ≠ State.reset.rxbuf ∧
    (after .encodeQuery State.reset).txbuf ≠ State.reset.txbuf ∧
    (after (.wr 0x020#10 0x01#8) State.reset).txpay ≠ State.reset.txpay := by decide

/-- EveryElementIsReadable: two states that read alike, with something pending in one of them only. -/
theorem test_witness_EveryElementIsReadable : State.reset.BuffersCanonical ∧ (withItem .txTake State.reset).BuffersCanonical ∧
    (∀ a : Addr, a ≠ 0x00E#10 → ∃ v, exec (.rd a) State.reset = .next { State.reset with reads := State.reset.reads ++ [v] } ∧
      exec (.rd a) (withItem .txTake State.reset) =
        .next { withItem .txTake State.reset with reads := (withItem .txTake State.reset).reads ++ [v] }) := by
  refine ⟨by decide, by decide, fun a ha => ⟨hostByte a State.reset, ?_, ?_⟩⟩
  · rw [exec_eq_effect, effect, hostRead, if_neg (fun h => ha (regAt_txData.mp h))]; rfl
  · rw [exec_eq_effect, effect, hostRead, if_neg (fun h => ha (regAt_txData.mp h))]
    have : hostByte a (withItem .txTake State.reset) = hostByte a State.reset := by
      unfold hostByte
      cases regAt a with
      | none => rfl
      | some r => cases r <;> rfl
    rw [this]; rfl

end Sys2Proof.Tests
end

namespace Sys2Proof.Machine

/-! ## What every step keeps (10_state.md R34)

Each named update of the state keeps `State.Inv` under the condition its lemma names. A command is a chain of such updates,
so the lemma for a command is the chain of theirs. -/

section Updates
variable {s : State}

theorem State.Inv.finish (h : s.Inv) (e : ErrCode) : (s.finish e).Inv :=
  { h with registersInRange := ⟨e.code_le_nine, h.registersInRange.2⟩ }

theorem State.Inv.setPending (h : s.Inv) (es : List Input) : (s.setPending es).Inv := { h with }

theorem State.Inv.logRead (h : s.Inv) (b : Byte) : (s.logRead b).Inv := { h with }

theorem State.Inv.logLine (h : s.Inv) (b : Byte) : (s.logLine b).Inv := { h with }

theorem State.Inv.dropFrame (h : s.Inv) : s.dropFrame.Inv :=
  { h with
    checksumFlagFollowsFrame := rfl
    validFrameHeld := nofun
    statusFieldsCurrent := nofun }

/-- The read may change once no frame is held, for then I4 and I5 say nothing of it. -/
theorem State.Inv.dropFrame_setRead (h : s.Inv) {m : Memory} {len : Byte} {ovf : Bool} (hlen : ovf = true → len = 255#8)
    (hwf : m.wf = true) (hsize : m.within 255 = true) : (s.dropFrame.setRead m len ovf).Inv :=
  { h.dropFrame with
    overflowMeansFull := hlen
    validFrameHeld := nofun
    statusFieldsCurrent := nofun
    buffersCanonical := ⟨hwf, hsize, h.buffersCanonical.2.2⟩ }

theorem State.Inv.setTx (h : s.Inv) {m : Memory} {len ptr : Byte} (hptr : ptr.toNat ≤ len.toNat)
    (hlen : len = 0#8 ∨ len = 5#8 ∨ len = 40#8) (hwf : m.wf = true) (hsize : m.within 40 = true) :
    (s.setTx m len ptr).Inv :=
  { h with
    txPointerInFrame := ⟨hptr, hlen⟩
    buffersCanonical := by
      obtain ⟨hrx, hrxSize, hpay, hpaySize, -, -⟩ := h.buffersCanonical
      exact ⟨hrx, hrxSize, hpay, hpaySize, hwf, hsize⟩ }

theorem State.Inv.setTxpay_write (h : s.Inv) {i : Nat} (hi : i < 35) (b : Byte) :
    (s.setTxpay (s.txpay.write i b)).Inv :=
  { h with
    buffersCanonical := by
      obtain ⟨hrx, hrxSize, hpay, hpaySize, htx⟩ := h.buffersCanonical
      exact ⟨hrx, hrxSize, Memory.wf_write hpay i b, Memory.within_write hpaySize hi b, htx⟩ }

/-- CKSUM_CALC is free; CKSUM_RX is what I4 speaks of. -/
theorem State.Inv.setCksumCalc (h : s.Inv) (c : Byte) : (s.setCksums c s.cksumRx).Inv := { h with }

theorem State.Inv.setStatusValid_false (h : s.Inv) : (s.setStatusValid false).Inv :=
  { h with statusFieldsCurrent := nofun }

/-- R28 holds of what an extraction writes: a field out of range is 0 and its bit in FVALID is 0. -/
theorem invalidFieldsZero_extractFields (n : Nat) (s : State) : (extractFields n s).InvalidFieldsZero := by
  have hzero (k : FieldId) (hk : (extractedValid s.params n).getLsbD (FieldId.index k) = false) :
      fieldValue s n k = 0#16 := by
    rw [getLsbD_extractedValid] at hk
    simp [fieldValue, hk]
  exact ⟨hzero .vp, hzero .lp, hzero .vt, hzero .lt, hzero .oct, hzero .ihx⟩

theorem State.Inv.extractFields (h : s.Inv) (n : Nat) : (extractFields n (s.setStatusValid false)).Inv :=
  { h.setStatusValid_false with
    statusFieldsCurrent := nofun
    invalidFieldsZero := invalidFieldsZero_extractFields n _ }

end Updates

section Commands
variable {s : State}

theorem State.Inv.rxPush (h : s.Inv) (b : Byte) : (rxPush b s).Inv := by
  obtain ⟨hwf, hsize, -⟩ := h.buffersCanonical
  rcases rxPush_cases b s with ⟨hlt, heq⟩ | ⟨hfull, heq⟩ <;> rw [heq]
  · have hovf : s.rxOvf = true → s.rxLen + 1#8 = 255#8 := fun ho => by
      have := h.overflowMeansFull ho
      simp [this] at hlt
    exact h.dropFrame_setRead hovf (Memory.wf_write hwf _ b) (Memory.within_write hsize hlt b)
  · exact h.dropFrame_setRead (fun _ => hfull) hwf hsize

/-- The advance of TX_PTR by one, as both pops make it. -/
theorem State.Inv.setTx_advance (h : s.Inv) (hlt : s.txPtr.toNat < s.txLen.toNat) :
    (s.setTx s.txbuf s.txLen (s.txPtr + 1#8)).Inv := by
  obtain ⟨-, -, -, -, hwf, hsize⟩ := h.buffersCanonical
  exact h.setTx (by bv_omega) h.txPointerInFrame.2 hwf hsize

theorem State.Inv.txPop (h : s.Inv) : (txPop s).2.Inv := by
  rcases txPop_cases s with ⟨hlt, heq⟩ | ⟨-, heq⟩ <;> rw [heq]
  · exact h.setTx_advance hlt
  · exact h

theorem State.Inv.sinkPop (h : s.Inv) : (sinkPop s).Inv := by
  rcases sinkPop_cases s with ⟨hlt, heq⟩ | ⟨-, heq⟩ <;> rw [heq]
  · exact (h.setTx_advance hlt).logLine _
  · exact h

/-- A frame of 5 or 40 bytes put into TXBUF, as the two ENCODE commands do. -/
theorem State.Inv.setTx_writeFrame (h : s.Inv) {body : List Byte} {len : Byte} (hbody : body.length < 40)
    (hlen : len = 0#8 ∨ len = 5#8 ∨ len = 40#8) :
    (s.setTx (writeFrame s.params s.txbuf body) len 0#8).Inv := by
  obtain ⟨-, -, -, -, hwf, hsize⟩ := h.buffersCanonical
  exact h.setTx (Nat.zero_le _) hlen (wf_writeFrame _ hwf body) (within_writeFrame _ hsize hbody)

theorem State.Inv.encodeControlCmd (h : s.Inv) : (encodeControlCmd s).Inv := by
  rcases encodeControlCmd_cases s with ⟨-, heq⟩ | ⟨-, heq⟩ <;> rw [heq]
  · exact h.finish _
  · exact (h.setTx_writeFrame (by simp) (by simp)).finish _

theorem State.Inv.encodeQueryCmd (h : s.Inv) : (encodeQueryCmd s).Inv := by
  rcases encodeQueryCmd_cases s with ⟨-, heq⟩ | ⟨-, heq⟩ <;> rw [heq]
  · exact h.finish _
  · exact (h.setTx_writeFrame (by decide) (by simp)).finish _

theorem State.Inv.rxClearCmd (h : s.Inv) : (rxClearCmd s).Inv := by
  obtain ⟨hwf, hsize, -⟩ := h.buffersCanonical
  exact (h.dropFrame_setRead (ovf := false) nofun hwf hsize).finish _

theorem State.Inv.txClearCmd (h : s.Inv) : (txClearCmd s).Inv := by
  obtain ⟨-, -, -, -, hwf, hsize⟩ := h.buffersCanonical
  exact (h.setTx le_rfl (.inl rfl) hwf hsize).finish _

theorem State.Inv.checksumCmd (h : s.Inv) : (checksumCmd s).Inv := by
  rcases checksumCmd_cases s with ⟨-, heq⟩ | ⟨-, heq⟩ <;> rw [heq] <;> exact (h.setCksumCalc _).finish _

theorem State.Inv.extractCmd (h : s.Inv) : (extractCmd s).Inv := (h.extractFields _).finish _

/-- The start of DECODE, with any two checksum bytes: no frame is held. -/
theorem State.Inv.decodeStart_setCksums (h : s.Inv) (c r : Byte) : ((decodeStart s).setCksums c r).Inv :=
  { h.dropFrame with
    validFrameHeld := nofun
    statusFieldsCurrent := nofun
    registersInRange := ⟨h.registersInRange.1, .inl rfl⟩ }

theorem shape_range (ty : Byte) : shape ty = 0#8 ∨ shape ty = 5#8 ∨ shape ty = 40#8 ∨ shape ty = 255#8 := by
  rcases shape_cases ty with ⟨-, h⟩ | ⟨-, h⟩ | ⟨-, h⟩ | ⟨-, h⟩ <;> simp [h]

/-- DECODE establishes I4: its guards are the clauses of I4, and it latches what it has checked. -/
theorem State.Inv.decodeCmd (h : s.Inv) : (decodeCmd s).Inv := by
  rcases decodeCmd_cases s with ⟨-, heq⟩ | ⟨-, -, -, heq⟩ | ⟨-, -, -, -, -, -, heq⟩ |
    ⟨-, hm, hovf, hshape, hlen, hck, heq⟩ <;> rw [heq]
  · exact (h.decodeStart_setCksums 0#8 0#8).finish _
  · exact (h.decodeStart_setCksums 0#8 0#8).finish _
  · exact (h.decodeStart_setCksums _ _).finish _
  · obtain ⟨hm0, hm1⟩ := s.hasMarker_iff.mp hm
    refine State.Inv.finish ?_ _
    exact { h.decodeStart_setCksums (readChecksum s) (lastByte s) with
      checksumFlagFollowsFrame := rfl
      validFrameHeld := fun _ => ⟨hovf, rfl, hlen, hshape, hm0, hm1, rfl, rfl, rfl, hck.symm⟩
      statusFieldsCurrent := nofun
      registersInRange := ⟨h.registersInRange.1, hlen ▸ shape_range _⟩ }

/-- Under both bases every field lies within the 255 bytes of a status frame (42_field_decoder.md R81). -/
theorem fieldInRange_statusFrame {p : Params} (hp : p.admissible = true) (k : FieldId) : fieldInRange p 255 k = true := by
  obtain ⟨hbase, -, -⟩ := (Params.admissible_iff p).mp hp
  rw [fieldInRange_iff, fieldIndex]
  cases k <;> simp only [FieldId.offset, FieldId.width] <;> omega

theorem extractedValid_statusFrame {p : Params} (hp : p.admissible = true) : extractedValid p 255 = 0b111111#6 :=
  extractedValid_eq fun k => by rw [fieldInRange_statusFrame hp]; cases k <;> rfl

theorem State.Inv.decodeStatusCmd (h : s.Inv) (hp : s.params.admissible = true) : (decodeStatusCmd s).Inv := by
  rcases decodeStatusCmd_cases s with ⟨-, heq⟩ | ⟨-, -, heq⟩ | ⟨hfv, hsig, heq⟩ <;> rw [heq]
  · exact h.setStatusValid_false.finish _
  · exact h.setStatusValid_false.finish _
  · obtain ⟨hty, hsub⟩ := (hasStatusSignature_iff s).mp hsig
    obtain ⟨-, hlen, hshape, -, -, -, hlty, hlsub, -⟩ := h.validFrameHeld hfv
    have hlen255 : s.rxLen = 255#8 := by rw [hlen, hshape, hty, shape_status]
    have hvalid : extractedValid s.params s.rxLen.toNat = 0b111111#6 := by
      rw [hlen255]; exact extractedValid_statusFrame hp
    refine State.Inv.finish ?_ _
    exact { h.extractFields s.rxLen.toNat with
      statusFieldsCurrent := fun _ => ⟨hfv, hlty.trans hty, hlsub.trans hsub, hvalid, rfl⟩ }

theorem State.Inv.runCmd (h : s.Inv) (hp : s.params.admissible = true) (c : Cmd) : (runCmd s c).Inv := by
  cases c with
  | nop => exact h
  | decode => exact h.decodeCmd
  | decodeStatus => exact h.decodeStatusCmd hp
  | extract => exact h.extractCmd
  | checksum => exact h.checksumCmd
  | encodeControl => exact h.encodeControlCmd
  | encodeQuery => exact h.encodeQueryCmd
  | rxClear => exact h.rxClearCmd
  | txClear => exact h.txClearCmd

/-- Admissible parameters are needed for DECODE_STATUS alone, which sets STATUS_VALID without asking whether every field was
in range. -/
theorem State.Inv.effect (h : s.Inv) (hp : s.params.admissible = true) (i : Instr) : (effect s i).Inv := by
  rcases effect_cases s i with ⟨c, -, -, -, heq⟩ | ⟨-, -, -, heq⟩ | ⟨-, -, hrest⟩
  · rw [heq]; exact h.runCmd hp c
  · rw [heq]; exact h.finish _
  rcases hrest with ⟨b, -, heq⟩ | ⟨-, heq⟩ | ⟨b, -, heq⟩ | ⟨_, d, j, -, -, hj, -, heq⟩ | ⟨-, heq⟩ | ⟨-, heq⟩ <;> rw [heq]
  · exact h.rxPush b
  · exact h.txPop.logRead _
  · exact h.logRead b
  · exact h.setTxpay_write hj d
  · exact h
  · exact h.sinkPop

end Commands

/-- The reset values meet the invariant whatever stands in the model's own fields, so the reset event does too. -/
theorem inv_resetEvent (s : State) : (resetEvent s).Inv where
  overflowMeansFull := nofun
  txPointerInFrame := ⟨le_rfl, .inl rfl⟩
  checksumFlagFollowsFrame := rfl
  validFrameHeld := nofun
  statusFieldsCurrent := nofun
  invalidFieldsZero := ⟨fun _ => rfl, fun _ => rfl, fun _ => rfl, fun _ => rfl, fun _ => rfl, fun _ => rfl⟩
  registersInRange := ⟨Nat.zero_le 9, .inl rfl⟩
  buffersCanonical := ⟨rfl, rfl, rfl, rfl, rfl, rfl⟩

/-- Settles O11: the reset state is what the reset event makes of itself. -/
theorem resetMeetsInvariants : Obligations.ResetMeetsInvariants := inv_resetEvent State.reset

/-- Settles O12, by the three things a step can do. -/
theorem stepKeepsInvariants : Obligations.StepKeepsInvariants := by
  intro s t h hstep
  obtain ⟨hp, ⟨-, rfl⟩ | ⟨rest, -, rfl⟩ | ⟨p, i, rest, -, -, rfl⟩⟩ := step_cases hstep
  · exact h
  · exact inv_resetEvent _
  · exact (h.setPending rest).effect hp i

/-! ## Every reachable state -/

theorem Reachable.inv {s : State} (h : Reachable s) : s.Inv := by
  induction h with
  | start p _ => exact inv_resetEvent { State.reset with params := p }
  | arrive es _ ih => exact ih.setPending _
  | step _ hs ih => exact stepKeepsInvariants _ _ ih hs

/-- A run of several steps from a reachable state ends in a reachable state. -/
theorem Reachable.run {s t : State} (h : Reachable s) (k : Nat) (hrun : core.run k s = .next t) : Reachable t := by
  induction k generalizing s with
  | zero => injection hrun with hst; exact hst ▸ h
  | succ k ih =>
    simp only [Host.Core.run] at hrun
    split at hrun
    · rename_i u hu; exact ih (h.step hu) hrun
    · cases hrun
    · cases hrun

/-- The query frame arrives on the line, the host runs DECODE, and one more byte arrives: the latches outlive the frame. -/
def latchesOutliveFrame : List Input :=
  [.item (.rxByte 0x7E#8), .item (.rxByte 0x7E#8), .item (.rxByte 0x02#8), .item (.rxByte 0x02#8),
   .item (.rxByte 0x04#8), .item (.word (Cmd.word .decode)), .item (.rxByte 0x00#8)]

/-- Settles O13: the invariant by induction on how the state is reached, I6 by a run of seven events. -/
theorem reachableStatesMeetInvariants : Obligations.ReachableStatesMeetInvariants := by
  refine ⟨fun _ => Reachable.inv, ?_⟩
  have hstart := (Reachable.start Params.default (by decide)).arrive latchesOutliveFrame
  exact ⟨_, hstart.run 7 rfl, by decide⟩

/-! ## The read (10_state.md R18 to R20) -/

/-- The read of `s` is made of the pushed bytes `bs`, over what stood in the buffer `m` before. -/
def HoldsRead (m : Memory) (bs : List Byte) (s : State) : Prop :=
  s.rxLen.toNat = min bs.length 255 ∧ s.rxbuf.bytes s.rxLen.toNat = bs.take 255 ∧ (s.rxOvf = true ↔ 255 < bs.length) ∧
    ∀ j, bs.length ≤ j → s.rxbuf.read j = m.read j

theorem holdsRead_nil {s : State} (hlen : s.rxLen = 0#8) (hovf : s.rxOvf = false) : HoldsRead s.rxbuf [] s := by
  simp [HoldsRead, hlen, hovf, Memory.bytes]

theorem HoldsRead.congr {m : Memory} {bs : List Byte} {s t : State} (h : HoldsRead m bs s) (hbuf : t.rxbuf = s.rxbuf)
    (hlen : t.rxLen = s.rxLen) (hovf : t.rxOvf = s.rxOvf) : HoldsRead m bs t := by
  rw [HoldsRead, hbuf, hlen, hovf]; exact h

/-- The bytes below a written index, and then the byte written. -/
theorem Memory.bytes_write_succ (m : Memory) (n : Nat) (b : Byte) : (m.write n b).bytes (n + 1) = m.bytes n ++ [b] := by
  have hbelow : (m.write n b).bytes n = m.bytes n :=
    Memory.bytes_congr fun i hi => by rw [Memory.read_write, if_neg (by omega)]
  rw [Memory.bytes_succ, hbelow, Memory.read_write, if_pos rfl]

theorem HoldsRead.rxPush {m : Memory} {bs : List Byte} {s : State} (h : HoldsRead m bs s) (b : Byte) :
    HoldsRead m (bs ++ [b]) (rxPush b s) := by
  obtain ⟨hlen, hbytes, hovf, hpast⟩ := h
  have hsnoc : (bs ++ [b]).length = bs.length + 1 := by simp
  rcases rxPush_cases b s with ⟨hlt, heq⟩ | ⟨hfull, heq⟩ <;> rw [heq, HoldsRead, hsnoc]
  · have hn : s.rxLen.toNat = bs.length := by omega
    have hsucc : (s.rxLen + 1#8).toNat = bs.length + 1 := by bv_omega
    simp only [State.setRead_rxbuf, State.setRead_rxLen, State.setRead_rxOvf, hsucc]
    refine ⟨by omega, ?_, by rw [hovf]; omega, fun j hj => ?_⟩
    · rw [hn, Memory.bytes_write_succ, ← hn, hbytes, List.take_of_length_le (by omega),
        List.take_of_length_le (by simp; omega)]
    · rw [Memory.read_write, if_neg (by omega)]; exact hpast j (by omega)
  · have h255 : 255 ≤ bs.length := by simp [hfull] at hlen; omega
    simp only [State.setRead_rxbuf, State.setRead_rxLen, State.setRead_rxOvf]
    refine ⟨by omega, ?_, by simp; omega, fun j hj => hpast j (by omega)⟩
    rw [hbytes, List.take_append_of_le_length h255]

/-- No command but RX_CLEAR touches the read. -/
theorem runCmd_keeps_read (s : State) {c : Cmd} (hc : c ≠ .rxClear) :
    (runCmd s c).rxbuf = s.rxbuf ∧ (runCmd s c).rxLen = s.rxLen ∧ (runCmd s c).rxOvf = s.rxOvf := by
  cases c with
  | nop => exact ⟨rfl, rfl, rfl⟩
  | decode =>
    rcases decodeCmd_cases s with ⟨-, h⟩ | ⟨-, -, -, h⟩ | ⟨-, -, -, -, -, -, h⟩ | ⟨-, -, -, -, -, -, h⟩ <;>
      rw [runCmd, h] <;> exact ⟨rfl, rfl, rfl⟩
  | decodeStatus =>
    rcases decodeStatusCmd_cases s with ⟨-, h⟩ | ⟨-, -, h⟩ | ⟨-, -, h⟩ <;> rw [runCmd, h] <;> exact ⟨rfl, rfl, rfl⟩
  | extract => exact ⟨rfl, rfl, rfl⟩
  | checksum => rcases checksumCmd_cases s with ⟨-, h⟩ | ⟨-, h⟩ <;> rw [runCmd, h] <;> exact ⟨rfl, rfl, rfl⟩
  | encodeControl => rcases encodeControlCmd_cases s with ⟨-, h⟩ | ⟨-, h⟩ <;> rw [runCmd, h] <;> exact ⟨rfl, rfl, rfl⟩
  | encodeQuery => rcases encodeQueryCmd_cases s with ⟨-, h⟩ | ⟨-, h⟩ <;> rw [runCmd, h] <;> exact ⟨rfl, rfl, rfl⟩
  | rxClear => exact absurd rfl hc
  | txClear => exact ⟨rfl, rfl, rfl⟩

theorem txPop_keeps_read (s : State) :
    (txPop s).2.rxbuf = s.rxbuf ∧ (txPop s).2.rxLen = s.rxLen ∧ (txPop s).2.rxOvf = s.rxOvf := by
  rcases txPop_cases s with ⟨-, h⟩ | ⟨-, h⟩ <;> rw [h] <;> exact ⟨rfl, rfl, rfl⟩

theorem sinkPop_keeps_read (s : State) :
    (sinkPop s).rxbuf = s.rxbuf ∧ (sinkPop s).rxLen = s.rxLen ∧ (sinkPop s).rxOvf = s.rxOvf := by
  rcases sinkPop_cases s with ⟨-, h⟩ | ⟨-, h⟩ <;> rw [h] <;> exact ⟨rfl, rfl, rfl⟩

/-- An instruction pushes its byte, if it has one; else it leaves the read alone, RX_CLEAR apart. -/
theorem effect_read_cases (s : State) {i : Instr} (hi : instrCommand i ≠ some .rxClear) :
    (∃ b, pushedByte i = some b ∧ effect s i = rxPush b s) ∨
    (pushedByte i = none ∧
      (effect s i).rxbuf = s.rxbuf ∧ (effect s i).rxLen = s.rxLen ∧ (effect s i).rxOvf = s.rxOvf) := by
  rcases effect_cases s i with ⟨c, hc, -, hb, heq⟩ | ⟨-, -, hb, heq⟩ | ⟨-, -, hrest⟩
  · exact .inr ⟨hb, heq ▸ runCmd_keeps_read s (fun h => hi (h ▸ hc))⟩
  · exact .inr ⟨hb, heq ▸ ⟨rfl, rfl, rfl⟩⟩
  rcases hrest with ⟨b, hb, heq⟩ | ⟨hb, heq⟩ | ⟨_, hb, heq⟩ | ⟨_, _, _, -, hb, -, -, heq⟩ | ⟨hb, heq⟩ | ⟨hb, heq⟩
  · exact .inl ⟨b, hb, heq⟩
  · exact .inr ⟨hb, heq ▸ txPop_keeps_read s⟩
  · exact .inr ⟨hb, heq ▸ ⟨rfl, rfl, rfl⟩⟩
  · exact .inr ⟨hb, heq ▸ ⟨rfl, rfl, rfl⟩⟩
  · exact .inr ⟨hb, by rw [heq]; exact ⟨rfl, rfl, rfl⟩⟩
  · exact .inr ⟨hb, heq ▸ sinkPop_keeps_read s⟩

/-- The read grows by the bytes pushed, over any instructions but RX_CLEAR. -/
theorem HoldsRead.execAll {m : Memory} {bs : List Byte} {s : State} (h : HoldsRead m bs s) (is : List Instr)
    (his : ∀ i ∈ is, instrCommand i ≠ some .rxClear) :
    ∃ t, execAll is s = .next t ∧ HoldsRead m (bs ++ pushedBytes is) t := by
  induction is generalizing bs s with
  | nil => exact ⟨s, rfl, by simpa [pushedBytes] using h⟩
  | cons i is ih =>
    rw [List.forall_mem_cons] at his
    rw [execAll_cons]
    rcases effect_read_cases s his.1 with ⟨b, hb, heq⟩ | ⟨hb, hbuf, hlen, hovf⟩
    · simpa [pushedBytes, hb, heq] using ih (h.rxPush b) his.2
    · simpa [pushedBytes, hb] using ih (h.congr hbuf hlen hovf) his.2

/-- Settles O16, by induction on the instructions from the empty read. -/
theorem readHoldsPushedBytes : Obligations.ReadHoldsPushedBytes := by
  intro s is hlen hovf his
  exact (holdsRead_nil hlen hovf).execAll is his

/-! ## Who writes ERR (10_state.md R26) -/

/-- Every command but NOP ends with one of the ten codes. -/
theorem runCmd_eq_finish (s : State) {c : Cmd} (hc : c ≠ .nop) : ∃ u e, runCmd s c = State.finish u e := by
  cases c with
  | nop => exact absurd rfl hc
  | decode =>
    rcases decodeCmd_cases s with ⟨-, h⟩ | ⟨-, -, -, h⟩ | ⟨-, -, -, -, -, -, h⟩ | ⟨-, -, -, -, -, -, h⟩ <;> exact ⟨_, _, h⟩
  | decodeStatus =>
    rcases decodeStatusCmd_cases s with ⟨-, h⟩ | ⟨-, -, h⟩ | ⟨-, -, h⟩ <;> exact ⟨_, _, h⟩
  | extract => exact ⟨_, _, rfl⟩
  | checksum => rcases checksumCmd_cases s with ⟨-, h⟩ | ⟨-, h⟩ <;> exact ⟨_, _, h⟩
  | encodeControl => rcases encodeControlCmd_cases s with ⟨-, h⟩ | ⟨-, h⟩ <;> exact ⟨_, _, h⟩
  | encodeQuery => rcases encodeQueryCmd_cases s with ⟨-, h⟩ | ⟨-, h⟩ <;> exact ⟨_, _, h⟩
  | rxClear => exact ⟨_, _, rfl⟩
  | txClear => exact ⟨_, _, rfl⟩

theorem rxPush_err (b : Byte) (s : State) : (rxPush b s).err = s.err := by
  rcases rxPush_cases b s with ⟨-, h⟩ | ⟨-, h⟩ <;> simp [h]

theorem txPop_err (s : State) : (txPop s).2.err = s.err := by
  rcases txPop_cases s with ⟨-, h⟩ | ⟨-, h⟩ <;> simp [h]

theorem sinkPop_err (s : State) : (sinkPop s).err = s.err := by
  rcases sinkPop_cases s with ⟨-, h⟩ | ⟨-, h⟩ <;> simp [h]

/-- What is no write of CMD leaves ERR alone. -/
theorem effect_err_of_not_command (s : State) {i : Instr} (hi : instrWritesCmd i = false) : (effect s i).err = s.err := by
  rcases effect_cases s i with ⟨_, -, hw, -⟩ | ⟨-, hw, -⟩ | ⟨-, -, hrest⟩
  · simp [hi] at hw
  · simp [hi] at hw
  rcases hrest with ⟨b, -, heq⟩ | ⟨-, heq⟩ | ⟨_, -, heq⟩ | ⟨_, _, _, -, -, -, -, heq⟩ | ⟨-, heq⟩ | ⟨-, heq⟩ <;> rw [heq]
  · exact rxPush_err b s
  · exact txPop_err s
  · rfl
  · rfl
  · exact sinkPop_err s

/-- A write of CMD runs the command of its code, or the illegal-command rule. -/
theorem effect_of_command (s : State) {i : Instr} (hi : instrWritesCmd i = true) :
    (∃ c, instrCommand i = some c ∧ effect s i = runCmd s c) ∨ (instrCommand i = none ∧ effect s i = illegalCmd s) := by
  rcases effect_cases s i with ⟨c, hc, -, -, heq⟩ | ⟨hc, -, -, heq⟩ | ⟨-, hw, -⟩
  · exact .inl ⟨c, hc, heq⟩
  · exact .inr ⟨hc, heq⟩
  · simp [hi] at hw

/-- Settles O46: every other command ends by `State.finish`, and nothing else does. -/
theorem onlyCommandsWriteErr : Obligations.OnlyCommandsWriteErr := by
  intro i s t hexec
  rw [exec_next_iff] at hexec
  subst hexec
  cases hw : instrWritesCmd i with
  | false => exact ⟨fun _ => effect_err_of_not_command s hw, nofun⟩
  | true =>
    rcases effect_of_command s hw with ⟨c, hc, heq⟩ | ⟨hc, heq⟩ <;> rw [heq, hc]
    · refine ⟨fun h => ?_, fun _ hnop => ?_⟩
      · obtain rfl : c = .nop := by simpa using h
        rfl
      · obtain ⟨u, e, hfin⟩ := runCmd_eq_finish s (fun h => hnop (congrArg some h))
        exact ⟨e, by rw [hfin, State.finish_err]⟩
    · exact ⟨nofun, fun _ _ => ⟨.illegalCmd, rfl⟩⟩

/-! ## The derived values (10_state.md R32, R33) -/

theorem State.expLen_eq (s : State) :
    s.expLen = if 3 ≤ s.rxLen.toNat ∧ s.rxbuf.read 0 = 0x7E#8 ∧ s.rxbuf.read 1 = 0x7E#8 then shape (s.rxbuf.read 2)
      else 0#8 := by
  rw [State.expLen]
  exact if_congr (and_congr_right' s.hasMarker_iff) rfl rfl

theorem State.frameComplete_eq (s : State) :
    s.frameComplete = decide (s.expLen ≠ 0#8 ∧ s.rxLen = s.expLen ∧ s.rxOvf = false) := by
  rw [Bool.eq_iff_iff]
  simp [State.frameComplete, and_assoc]

theorem State.getLsbD_stat (s : State) (i : Nat) :
    s.stat.getLsbD i =
      [s.frameValid, s.cksumOk, s.statusValid, s.rxOvf, s.frameComplete, s.txPending, false, false].getD i false := by
  rw [State.stat, BitVec.getLsbD_ofBoolListLE]

/-- Settles O45, by the bits of STAT one after another. -/
theorem statusByteBits : Obligations.StatusByteBits := by
  intro s
  simp only [State.getLsbD_stat]
  exact ⟨s.expLen_eq, rfl, rfl, rfl, rfl, s.frameComplete_eq, rfl, rfl, rfl⟩

end Sys2Proof.Machine

namespace Sys2Proof.Machine

/-! ## A step (20_memory.md R48) -/

theorem step_item {s : State} {p : PortItem} {i : Instr} {rest : List Input} (hp : s.params.admissible = true)
    (hpend : s.pending = .item p :: rest) (hdec : decode p = .instr i) : step s = exec i (s.setPending rest) := by
  rw [step, if_pos hp, hpend]
  simp only [hdec]

theorem decode_of_decodeTableWord {nbits w : Nat} {i : Instr} (h : decodeTableWord nbits w = some i) :
    decode (portItemOf nbits w) = .instr i := by
  rw [decodeTableWord, Option.ite_none_left_eq_some] at h
  obtain ⟨-, h⟩ := h
  cases hdec : decode (portItemOf nbits w) with
  | instr j => simpa [hdec] using h
  | reject e => simp [hdec] at h

/-- Settles O7: a placed event is the first pending one, and taking it away gives back the state it was placed in. -/
theorem stepRunsDecodedInstruction : Obligations.StepRunsDecodedInstruction :=
  ⟨fun _ _ _ _ hp hpend hdec => step_item hp hpend hdec,
    fun s _ _ _ hp htable => step_item (s := s.withFetchWord _ _) hp rfl (decode_of_decodeTableWord htable)⟩

/-! ## The rows that are cases of the two transactions (20_memory.md R37 to R41) -/

theorem exec_wr_cmd (d : Byte) (s : State) : exec (.wr 0x000#10 d) s = exec (decodeCode d) s := by
  rw [exec_eq_effect (decodeCode d), effect_decodeCode]
  rfl

theorem exec_wr_rxData (d : Byte) (s : State) : exec (.wr 0x00D#10 d) s = exec (.wrRxData d) s := rfl

theorem exec_rd_txData (s : State) : exec (.rd 0x00E#10) s = exec .rdTxData s := rfl

/-- A write word that decodes is the HostWrite of its fields. -/
theorem exec_of_decode_write {a : Addr} {d : Byte} {i : Instr} (h : decodeWord (hostWord true a d) = .instr i)
    (s : State) : exec i s = exec (.wr a d) s := by
  rw [decodeWord_hostWord, if_pos rfl] at h
  split_ifs at h with hcmd hrx <;> injection h with h <;> subst h
  · rw [hcmd, exec_wr_cmd]
  · rw [hrx, exec_wr_rxData]
  · rfl

/-- A read word that decodes is the HostRead of its address. -/
theorem exec_of_decode_read {a : Addr} {d : Byte} {i : Instr} (h : decodeWord (hostWord false a d) = .instr i)
    (s : State) : exec i s = exec (.rd a) s := by
  rw [decodeWord_hostWord, if_neg Bool.false_ne_true] at h
  split_ifs at h with hdata htx <;> injection h with h <;> subst h
  · rw [htx, exec_rd_txData]
  · rfl

/-- Settles O43: a word that decodes has bit 18 clear, so it is given by its fields. -/
theorem rowsAgreeWithTransactions : Obligations.RowsAgreeWithTransactions := by
  intro w i s hdec
  change decodeWord w = .instr i at hdec
  change (TWord.isWrite w = true → exec i s = exec (.wr (TWord.addr w) (TWord.data w)) s) ∧
    (TWord.isWrite w = false → exec i s = exec (.rd (TWord.addr w)) s)
  rcases TWord.cases_hostWord w with hres | ⟨wr, a, d, rfl⟩
  · rw [decodeWord_reserved hres] at hdec; cases hdec
  · simp only [TWord.isWrite_hostWord, TWord.addr_hostWord, TWord.data_hostWord]
    refine ⟨?_, ?_⟩ <;> rintro rfl
    · exact exec_of_decode_write hdec s
    · exact exec_of_decode_read hdec s

/-! ## Host writes (20_memory.md R38) -/

theorem hostWrite_txpay {a : Addr} (hlo : 0x020 ≤ a.toNat) (hhi : a.toNat ≤ 0x042) (d : Byte) (s : State) :
    hostWrite a d s = s.setTxpay (s.txpay.write (a.toNat - 0x020) d) := by
  have hreg : regAt a = some (.txpay (a.toNat - 0x020)) := regAt_txpay.mpr ⟨by omega, by omega⟩
  rw [hostWrite, hreg]

theorem hostWrite_ignored {a : Addr} (hcmd : a ≠ 0x000#10) (hrx : a ≠ 0x00D#10)
    (hpay : ¬ (0x020 ≤ a.toNat ∧ a.toNat ≤ 0x042)) (d : Byte) (s : State) : hostWrite a d s = s := by
  rcases hostWrite_cases a d s with ⟨ha, -⟩ | ⟨ha, -⟩ | ⟨j, hj, ha, -⟩ | ⟨-, -, -, heq⟩
  · exact absurd ha hcmd
  · exact absurd ha hrx
  · exact absurd ⟨by omega, by omega⟩ hpay
  · exact heq

/-- Settles O42, one rule for each of the four kinds of address. -/
theorem hostWriteEffect : Obligations.HostWriteEffect := fun s _ d =>
  ⟨fun ha => ha ▸ exec_wr_cmd d s, fun ha => ha ▸ exec_wr_rxData d s,
    fun hlo hhi => ⟨_, exec_next_iff.mpr (hostWrite_txpay hlo hhi d s), fun j => Memory.read_write s.txpay _ j d⟩,
    fun hcmd hrx hpay => exec_next_iff.mpr (hostWrite_ignored hcmd hrx hpay d s)⟩

/-! ## Host reads (20_memory.md R36, R37) -/

/-- A read of a register, TX_DATA apart, returns its read value and changes nothing in the block. -/
theorem effect_rd_of_regAt {a : Addr} {r : Reg} (h : regAt a = some r) (hr : r ≠ .txData) (s : State) :
    effect s (.rd a) = s.logRead (readValue s r) := by
  rw [effect, hostRead, if_neg (by simpa [h] using hr), hostByte, h]

theorem effect_rd_of_reserved {a : Addr} (h : regAt a = none) (s : State) : effect s (.rd a) = s.logRead 0x00#8 := by
  rw [effect, hostRead, if_neg (by simp [h]), hostByte, h]

theorem regAt_eq_none_of_reserved {a : Addr} (h : a.toNat = 0x00F ∨ (0x01C ≤ a.toNat ∧ a.toNat ≤ 0x01F) ∨
    (0x043 ≤ a.toNat ∧ a.toNat ≤ 0x0FF) ∨ a.toNat = 0x1FF ∨ 0x228 ≤ a.toNat) : regAt a = none := by
  unfold regAt
  generalize a.toNat = n at h ⊢
  have hpay : ¬ (0x020 ≤ n ∧ n ≤ 0x042) := by omega
  have hrx : ¬ (0x100 ≤ n ∧ n ≤ 0x1FE) := by omega
  have htx : ¬ (0x200 ≤ n ∧ n ≤ 0x227) := by omega
  split
  case h_28 => rw [if_neg hpay, if_neg hrx, if_neg htx]
  all_goals simp at h

/-- FVALID reads with its two upper bits 0. -/
theorem readValue_fvalid (s : State) : readValue s .fvalid = 0b00#2 ++ s.fvalid :=
  BitVec.setWidth_eq_append (by decide)

/-- Settles O41, by what stands at each address. -/
theorem registerMapReads : Obligations.RegisterMapReads := by
  intro s gives hgives
  have named {a : Addr} {r : Reg} (h : regAt a = some r) (hr : r ≠ .txData) : gives a (readValue s r) :=
    (hgives _ _).mpr (exec_next_iff.mpr (effect_rd_of_regAt h hr s))
  refine ⟨named (r := .cmd) rfl nofun, named (r := .err) rfl nofun, named (r := .stat) rfl nofun,
    named (r := .rxLen) rfl nofun, named (r := .expLen) rfl nofun, named (r := .frameType) rfl nofun,
    named (r := .frameSub) rfl nofun, named (r := .frameLen) rfl nofun, named (r := .cksumCalc) rfl nofun,
    named (r := .cksumRx) rfl nofun, readValue_fvalid s ▸ named (r := .fvalid) rfl nofun, named (r := .txLen) rfl nofun,
    named (r := .txPtr) rfl nofun, named (r := .rxData) rfl nofun, exec_rd_txData s,
    named (r := .fieldLo .vp) rfl nofun, named (r := .fieldHi .vp) rfl nofun,
    named (r := .fieldLo .lp) rfl nofun, named (r := .fieldHi .lp) rfl nofun,
    named (r := .fieldLo .vt) rfl nofun, named (r := .fieldHi .vt) rfl nofun,
    named (r := .fieldLo .lt) rfl nofun, named (r := .fieldHi .lt) rfl nofun,
    named (r := .fieldLo .oct) rfl nofun, named (r := .fieldHi .oct) rfl nofun,
    named (r := .fieldLo .ihx) rfl nofun, named (r := .fieldHi .ihx) rfl nofun,
    fun i hi => named (regAt_regAddr (.txpay i) hi) nofun, fun i hi => named (regAt_regAddr (.rxwin i) hi) nofun,
    fun i hi => named (regAt_regAddr (.txwin i) hi) nofun, fun a ha => ?_⟩
  exact (hgives _ _).mpr (exec_next_iff.mpr (effect_rd_of_reserved (regAt_eq_none_of_reserved ha) s))

/-! ## One field in two reads (20_memory.md R42) -/

theorem rxPush_fields_reads (b : Byte) (s : State) :
    (rxPush b s).fields = s.fields ∧ (rxPush b s).reads = s.reads := by
  rcases rxPush_cases b s with ⟨-, h⟩ | ⟨-, h⟩ <;> rw [h] <;> exact ⟨rfl, rfl⟩

theorem txPop_fields_reads (s : State) : (txPop s).2.fields = s.fields ∧ (txPop s).2.reads = s.reads := by
  rcases txPop_cases s with ⟨-, h⟩ | ⟨-, h⟩ <;> rw [h] <;> exact ⟨rfl, rfl⟩

theorem sinkPop_fields_reads (s : State) : (sinkPop s).fields = s.fields ∧ (sinkPop s).reads = s.reads := by
  rcases sinkPop_cases s with ⟨-, h⟩ | ⟨-, h⟩ <;> rw [h] <;> exact ⟨rfl, rfl⟩

/-- What is no write of CMD keeps FIELD, and what host reads returned before. -/
theorem effect_fields_reads_of_not_command (s : State) {i : Instr} (hi : instrWritesCmd i = false) :
    (effect s i).fields = s.fields ∧ s.reads <+: (effect s i).reads := by
  rcases effect_cases s i with ⟨_, -, hw, -⟩ | ⟨-, hw, -⟩ | ⟨-, -, hrest⟩
  · simp [hi] at hw
  · simp [hi] at hw
  rcases hrest with ⟨b, -, heq⟩ | ⟨-, heq⟩ | ⟨_, -, heq⟩ | ⟨_, _, _, -, -, -, -, heq⟩ | ⟨-, heq⟩ | ⟨-, heq⟩ <;> rw [heq]
  · obtain ⟨hf, hr⟩ := rxPush_fields_reads b s
    exact ⟨hf, [], by rw [hr, List.append_nil]⟩
  · obtain ⟨hf, hr⟩ := txPop_fields_reads s
    exact ⟨hf, [_], by rw [State.logRead_reads, hr]⟩
  · exact ⟨rfl, [_], rfl⟩
  · exact ⟨rfl, [], List.append_nil _⟩
  · exact ⟨rfl, [], List.append_nil _⟩
  · obtain ⟨hf, hr⟩ := sinkPop_fields_reads s
    exact ⟨hf, [], by rw [hr, List.append_nil]⟩

theorem execAll_fields_reads_of_not_command (is : List Instr) (his : ∀ i ∈ is, instrWritesCmd i = false) (s : State) :
    ∃ t, execAll is s = .next t ∧ t.fields = s.fields ∧ s.reads <+: t.reads := by
  induction is generalizing s with
  | nil => exact ⟨s, rfl, rfl, [], List.append_nil _⟩
  | cons i is ih =>
    rw [List.forall_mem_cons] at his
    obtain ⟨hf, hr⟩ := effect_fields_reads_of_not_command s his.1
    obtain ⟨t, ht, htf, htr⟩ := ih his.2 (effect s i)
    exact ⟨t, by rw [execAll_cons, ht], htf.trans hf, hr.trans htr⟩

theorem effect_rd_fieldLo (k : FieldId) (s : State) :
    effect s (.rd (BitVec.ofNat 10 (0x010 + 2 * FieldId.index k))) = s.logRead ((s.fields.get k).extractLsb' 0 8) :=
  effect_rd_of_regAt (regAt_regAddr (.fieldLo k) trivial) nofun s

theorem effect_rd_fieldHi (k : FieldId) (s : State) :
    effect s (.rd (BitVec.ofNat 10 (0x011 + 2 * FieldId.index k))) = s.logRead ((s.fields.get k).extractLsb' 8 8) :=
  effect_rd_of_regAt (regAt_regAddr (.fieldHi k) trivial) nofun s

/-- Settles O44: nothing between the two reads writes FIELD, so both take their byte from one value. -/
theorem fieldReadInTwoBytes : Obligations.FieldReadInTwoBytes := by
  intro s k between hbetween
  obtain ⟨t, ht, hfields, others, hreads⟩ :=
    execAll_fields_reads_of_not_command between hbetween (s.logRead ((s.fields.get k).extractLsb' 0 8))
  rw [State.logRead_fields] at hfields
  refine ⟨t.logRead ((s.fields.get k).extractLsb' 8 8), (s.fields.get k).extractLsb' 0 8,
    (s.fields.get k).extractLsb' 8 8, others, ?_, ?_, BitVec.extractLsb'_append_extractLsb', hfields⟩
  · obtain ⟨u, hu, hrun⟩ := execAll_append between [.rd (BitVec.ofNat 10 (0x011 + 2 * FieldId.index k))]
      (s.logRead ((s.fields.get k).extractLsb' 0 8))
    obtain rfl : t = u := by rw [ht] at hu; injection hu
    rw [List.cons_append, execAll_cons, effect_rd_fieldLo, hrun, execAll_cons, effect_rd_fieldHi, execAll_nil, hfields]
  · rw [State.logRead_reads, ← hreads, State.logRead_reads]

end Sys2Proof.Machine

namespace Sys2Proof.Machine

/-! ## The decoder on each kind of word (30_encoding.md R60 to R63) -/

theorem decode_wr_cmd (d : Byte) : decode (.word (hostWord true 0x000#10 d)) = .instr (decodeCode d) := by
  rw [decode, decodeWord_hostWord, if_pos rfl, if_pos rfl]

theorem decode_wr_rxData (d : Byte) : decode (.word (hostWord true 0x00D#10 d)) = .instr (.wrRxData d) := by
  rw [decode, decodeWord_hostWord, if_pos rfl, if_neg (by decide), if_pos rfl]

theorem decode_wr {a : Addr} (hcmd : a ≠ 0x000#10) (hrx : a ≠ 0x00D#10) (d : Byte) :
    decode (.word (hostWord true a d)) = .instr (.wr a d) := by
  rw [decode, decodeWord_hostWord, if_pos rfl, if_neg hcmd, if_neg hrx]

theorem decode_rd_txData : decode (.word (hostWord false 0x00E#10 0x00#8)) = .instr .rdTxData := rfl

theorem decode_rd {a : Addr} (htx : a ≠ 0x00E#10) : decode (.word (hostWord false a 0x00#8)) = .instr (.rd a) := by
  rw [decode, decodeWord_hostWord, if_neg Bool.false_ne_true, if_neg (not_not_intro rfl), if_neg htx]

theorem decode_cmd_word (c : Cmd) : decode (.word c.word) = .instr c.instr := by
  rw [Cmd.word, decode_wr_cmd, decodeCode_code]

theorem decode_wr_illegal {d : Byte} (h : legalCodes.contains d = false) :
    decode (.word (hostWord true 0x000#10 d)) = .instr (.illegalCmd d) := by
  rw [decode_wr_cmd, decodeCode_illegal h]

theorem decode_reserved {w : TWord} (h : TWord.reserved w = true) : decode (.word w) = .reject .reservedBit18 :=
  decodeWord_reserved h

theorem decode_read_with_data {w : TWord} (hres : TWord.reserved w = false) (hread : TWord.isWrite w = false)
    (hdata : TWord.data w ≠ 0x00#8) : decode (.word w) = .reject .readWithData := by
  rw [decode, decodeWord, if_neg (by simp [hres]), if_neg (by simp [hread]), if_pos hdata]

/-- A word with bit 18 clear that is a write, or a read without data, spells a transaction. -/
theorem exists_decode_eq_instr {w : TWord} (hres : TWord.reserved w = false)
    (h : TWord.isWrite w = true ∨ TWord.data w = 0x00#8) : ∃ i, decode (.word w) = .instr i := by
  cases hdec : decodeWord w with
  | instr i => exact ⟨i, hdec⟩
  | reject e =>
    rcases decodeWord_reject hdec with hres' | ⟨a, d, rfl, hd⟩
    · simp [hres] at hres'
    · simp [hd] at h

/-! ## Decoder and encoder (30_encoding.md R62, R63) -/

/-- Settles O1, row by row: the encoder gives a row's word, whose fields the decoder reads back. -/
theorem decodeEncodeRoundTrip : Obligations.DecodeEncodeRoundTrip := by
  intro i hwf
  cases i with
  | nop => exact decode_cmd_word .nop
  | decode => exact decode_cmd_word .decode
  | decodeStatus => exact decode_cmd_word .decodeStatus
  | extract => exact decode_cmd_word .extract
  | checksum => exact decode_cmd_word .checksum
  | encodeControl => exact decode_cmd_word .encodeControl
  | encodeQuery => exact decode_cmd_word .encodeQuery
  | rxClear => exact decode_cmd_word .rxClear
  | txClear => exact decode_cmd_word .txClear
  | illegalCmd d => exact decode_wr_illegal (by simpa [Instr.wf] using hwf)
  | wrRxData b => exact decode_wr_rxData b
  | rdTxData => exact decode_rd_txData
  | wr a d =>
    obtain ⟨hcmd, hrx⟩ : a ≠ 0x000#10 ∧ a ≠ 0x00D#10 := by simpa [Instr.wf] using hwf
    exact decode_wr hcmd hrx d
  | rd a => exact decode_rd (by simpa [Instr.wf] using hwf)
  | serRx b => rfl
  | serTx => rfl

theorem wf_cmd_instr (c : Cmd) : c.instr.wf = true := by cases c <;> rfl

theorem encode_cmd_instr (c : Cmd) : encode c.instr = .word c.word := by cases c <;> rfl

/-- What a write of CMD decodes to is well-formed, and is encoded as that write. -/
theorem decodeCode_wf_encode (d : Byte) :
    (decodeCode d).wf = true ∧ encode (decodeCode d) = .word (hostWord true 0x000#10 d) := by
  cases hcode : cmdOfCode d with
  | some c =>
    obtain rfl := code_of_cmdOfCode hcode
    rw [decodeCode_code]
    exact ⟨wf_cmd_instr c, encode_cmd_instr c⟩
  | none =>
    have hillegal := cmdOfCode_eq_none.mp hcode
    rw [decodeCode_illegal hillegal]
    exact ⟨by rw [Instr.wf, hillegal]; rfl, rfl⟩

/-- What a word decodes to is well-formed, and is encoded as that word. -/
theorem wf_encode_of_decodeWord {w : TWord} {i : Instr} (h : decodeWord w = .instr i) :
    i.wf = true ∧ encode i = .word w := by
  rcases TWord.cases_hostWord w with hres | ⟨wr, a, d, rfl⟩
  · rw [decodeWord_reserved hres] at h; cases h
  rw [decodeWord_hostWord] at h
  split_ifs at h with hwr hcmd hrx hdata htx <;> injection h with h <;> subst h
  · rw [hwr, hcmd]
    exact decodeCode_wf_encode d
  · rw [hwr, hrx]
    exact ⟨rfl, rfl⟩
  · rw [hwr]
    exact ⟨by simp [Instr.wf, hcmd, hrx], rfl⟩
  · rw [Bool.eq_false_of_not_eq_true hwr, htx, not_not.mp hdata]
    exact ⟨rfl, rfl⟩
  · rw [Bool.eq_false_of_not_eq_true hwr, not_not.mp hdata]
    exact ⟨by simp [Instr.wf, htx], rfl⟩

/-- Settles O2, port by port; a word with bit 18 clear is given by its fields. -/
theorem encodeDecodeRoundTrip : Obligations.EncodeDecodeRoundTrip := by
  intro p i h
  cases p with
  | word w => exact wf_encode_of_decodeWord h
  | rxByte b => cases h; exact ⟨rfl, rfl⟩
  | txTake => cases h; exact ⟨rfl, rfl⟩

/-- Settles O3: the laws of the word's four fields, and the decoder run on the five words. -/
theorem hostWordLayout : Obligations.HostWordLayout :=
  ⟨fun w a d => ⟨TWord.isWrite_hostWord w a d, TWord.reserved_hostWord w a d, TWord.addr_hostWord w a d,
    TWord.data_hostWord w a d⟩, by decide, by decide, by decide, by decide, by decide⟩

/-! ## The opcode table (30_encoding.md R63) -/

/-- The law family of the opcode table, for all sixteen rows at once. -/
theorem tableRow_statement (i : Instr) : Laws.TableRow.Statement i := by
  cases i with
  | nop => exact Laws.TableRow.nop
  | decode => exact Laws.TableRow.decode
  | decodeStatus => exact Laws.TableRow.decodeStatus
  | extract => exact Laws.TableRow.extract
  | checksum => exact Laws.TableRow.checksum
  | encodeControl => exact Laws.TableRow.encodeControl
  | encodeQuery => exact Laws.TableRow.encodeQuery
  | rxClear => exact Laws.TableRow.rxClear
  | txClear => exact Laws.TableRow.txClear
  | illegalCmd d => exact Laws.TableRow.illegalCmd d
  | wrRxData b => exact Laws.TableRow.wrRxData b
  | rdTxData => exact Laws.TableRow.rdTxData
  | wr a d => exact Laws.TableRow.wr a d
  | rd a => exact Laws.TableRow.rd a
  | serRx b => exact Laws.TableRow.serRx b
  | serTx => exact Laws.TableRow.serTx

/-- Every row of the table asks for bit 18 to be 0. -/
theorem firstRow_reserved {w : TWord} (h : TWord.reserved w = true) : firstRow w = none := by
  have hrows : ∀ r ∈ opcodeTable, r.mask.getLsbD 18 = true ∧ r.fixed.getLsbD 18 = false := by decide
  rw [firstRow, List.find?_eq_none]
  intro r hr hfits
  obtain ⟨hmask, hfixed⟩ := hrows r hr
  have hbit := congrArg (BitVec.getLsbD · 18) (beq_iff_eq.mp hfits)
  change w.getLsbD 18 = true at h
  simp [-BitVec.getLsbD_eq_getElem, h, hmask, hfixed] at hbit

theorem firstRow_read_with_data (a : Addr) {d : Byte} (hd : d ≠ 0x00#8) : firstRow (hostWord false a d) = none := by
  rw [← Option.map_eq_none_iff (f := TableRow.mnemonic), Laws.TableRow.firstRow_hostWord, if_neg Bool.false_ne_true,
    if_neg hd]

theorem firstRow_of_reject {w : TWord} {e : DecodeError} (h : decodeWord w = .reject e) : firstRow w = none := by
  rcases decodeWord_reject h with hres | ⟨a, d, rfl, hd⟩
  · exact firstRow_reserved hres
  · exact firstRow_read_with_data a hd

theorem firstRow_of_decode {w : TWord} {i : Instr} (h : decodeWord w = .instr i) :
    (firstRow w).map TableRow.mnemonic = some i.mnemonic := by
  obtain ⟨hwf, henc⟩ := wf_encode_of_decodeWord h
  exact tableRow_statement i w henc hwf

/-- Settles O4: a decoded word is the encoding of what it decodes to, whose row the table laws give. -/
theorem listingDecoderFollowsTable : Obligations.ListingDecoderFollowsTable := by
  refine ⟨fun w => ⟨decode_reserved, decode_read_with_data, fun hres hspells => ?_, fun ⟨_, hrej⟩ =>
    firstRow_of_reject hrej⟩, fun _ => rfl, rfl⟩
  obtain ⟨i, hdec⟩ := exists_decode_eq_instr hres hspells
  exact ⟨i, hdec, firstRow_of_decode hdec⟩

/-! ## The command codes (30_encoding.md R60, R61) -/

theorem not_legal_of_range {d : Byte}
    (h : (0x05 ≤ d.toNat ∧ d.toNat ≤ 0x0F) ∨ (0x12 ≤ d.toNat ∧ d.toNat ≤ 0x1F) ∨ 0x22 ≤ d.toNat) :
    legalCodes.contains d = false := by
  have hlegal : ∀ c ∈ legalCodes,
      ¬ ((0x05 ≤ c.toNat ∧ c.toNat ≤ 0x0F) ∨ (0x12 ≤ c.toNat ∧ c.toNat ≤ 0x1F) ∨ 0x22 ≤ c.toNat) := by decide
  rw [List.contains_eq_mem, decide_eq_false_iff_not]
  exact fun hmem => hlegal d hmem h

/-- Settles O5: the nine words are the commands' own, and a code in the three ranges is none of the nine. -/
theorem commandCodes : Obligations.CommandCodes :=
  ⟨decode_cmd_word .nop, decode_cmd_word .decode, decode_cmd_word .decodeStatus, decode_cmd_word .extract,
    decode_cmd_word .checksum, decode_cmd_word .encodeControl, decode_cmd_word .encodeQuery, decode_cmd_word .rxClear,
    decode_cmd_word .txClear, fun _ hrange => ⟨decode_wr_illegal (not_legal_of_range hrange), fun _ => rfl⟩⟩

/-! ## Host listings (30_encoding.md R66) -/

/-- The TXPAY window holds no address with a row of its own. -/
theorem decode_wrReg_txpay {i : Nat} (hi : i < 35) (b : Byte) :
    decode (wrReg (.txpay i) b) = .instr (.wr (regAddr (.txpay i)) b) := by
  have hreg : regAt (regAddr (.txpay i)) = some (.txpay i) := regAt_regAddr (.txpay i) hi
  refine decode_wr (fun h => ?_) (fun h => ?_) b
  · simp [regAt_cmd.mpr h] at hreg
  · simp [regAt_rxData.mpr h] at hreg

theorem decode_rdReg {r : Reg} (hreg : regAt (regAddr r) = some r) (hr : r ≠ .txData) :
    decode (rdReg r) = .instr (.rd (regAddr r)) :=
  decode_rd fun h => hr (by simpa [regAt_txData.mpr h] using hreg.symm)

/-- Settles O6, by what the word of each named register decodes to. -/
theorem pseudoExpansions : Obligations.PseudoExpansions := by
  refine ⟨fun c => ?_, fun bs => ?_, fun n => ?_, ?_, fun vs => ?_, fun i b hi => ?_, fun k => ?_⟩
  · simp [expand, wrReg, regAddr, decode_wr_cmd, decodeCode_code]
  · simp [expand, wrReg, regAddr, decode_wr_rxData]
  · simp [expand, wrReg, regAddr, decode_wr_rxData]
  · simp [expand, rdReg, regAddr, decode_rd_txData]
  · simp [expand, loopInstrs, List.map_flatMap, wrReg, rdReg, regAddr, decode_wr_rxData, decode_rd_txData]
  · simp [expand, decode_wrReg_txpay hi, regAddr]
  · simp [expand, decode_rdReg (regAt_regAddr (.fieldLo k) trivial), decode_rdReg (regAt_regAddr (.fieldHi k) trivial),
      regAddr]

/-! ## Refused steps (30_encoding.md R63, 60_exceptions.md R120) -/

theorem step_reject {s : State} {p : PortItem} {e : DecodeError} {rest : List Input} (hp : s.params.admissible = true)
    (hpend : s.pending = .item p :: rest) (hdec : decode p = .reject e) : step s = .refused (refusalOf e) := by
  rw [step, if_pos hp, hpend]
  simp only [hdec]

theorem step_inadmissible {s : State} (hp : s.params.admissible = false) : step s = .refused .inadmissibleParams := by
  rw [step, if_neg (by simp [hp])]

theorem step_waits {s : State} (hp : s.params.admissible = true) (hpend : s.pending = []) : step s = .next s := by
  rw [step, if_pos hp, hpend]

/-- Settles O8: a step refuses the word its decoder rejects, under the same name. -/
theorem stepRefusesByName : Obligations.StepRefusesByName :=
  ⟨fun _ _ _ hp hpend => ⟨fun hres => step_reject hp hpend (decode_reserved hres),
    fun hres hread hdata => step_reject hp hpend (decode_read_with_data hres hread hdata)⟩,
    fun _ => step_inadmissible, fun _ => step_waits⟩

/-! ## The shape table (30_encoding.md R55) -/

/-- Settles O18: a type byte that is none of the three falls in the last of the table's cases. -/
theorem shapeTable : Obligations.ShapeTable := by
  refine ⟨rfl, shape_status, rfl, fun ty hquery hstatus hcontrol => ?_⟩
  rcases shape_cases ty with ⟨h, -⟩ | ⟨h, -⟩ | ⟨h, -⟩ | ⟨-, hshape⟩
  · exact absurd h hquery
  · exact absurd h hstatus
  · exact absurd h hcontrol
  · exact hshape

end Sys2Proof.Machine

namespace Sys2Proof.Machine

/-! ## RxPush (40_frame_receive.md R67) -/

/-- Settles O15: both agents perform `rxPush`, which writes one byte where there is room for it. -/
theorem rxPushEffect : Obligations.RxPushEffect := by
  intro s b i hi
  have hexec : exec i s = .next (rxPush b s) := by rcases hi with rfl | rfl <;> rfl
  rw [hexec]
  rcases rxPush_cases b s with ⟨hlt, heq⟩ | ⟨hfull, heq⟩ <;> rw [heq]
  · exact ⟨fun _ => ⟨_, fun j => Memory.read_write _ _ j b, rfl⟩, fun hfull => by simp [hfull] at hlt⟩
  · exact ⟨fun hlt => by simp [hfull] at hlt, fun _ => rfl⟩

/-- The sink's turn works on the TX side alone, so a change of the read may come before or after it. -/
theorem sinkPop_dropFrame_setRead (s : State) (m : Memory) (len : Byte) (ovf : Bool) :
    sinkPop (s.dropFrame.setRead m len ovf) = (sinkPop s).dropFrame.setRead m len ovf := by
  rcases sinkPop_cases s with ⟨hlt, heq⟩ | ⟨hle, heq⟩ <;> rw [heq]
  · exact if_pos (s.txPending_iff.mpr hlt)
  · exact if_neg fun h => absurd (s.txPending_iff.mp h) (by omega)

theorem sinkPop_rxPush (b : Byte) (s : State) : sinkPop (rxPush b s) = rxPush b (sinkPop s) := by
  obtain ⟨hbuf, hlen, hovf⟩ := sinkPop_keeps_read s
  rw [rxPush, apply_ite sinkPop, sinkPop_dropFrame_setRead, sinkPop_dropFrame_setRead, rxPush, hbuf, hlen, hovf]

/-- Settles O49: a push writes the read, a sink's turn the TX side, and neither looks at what the other writes. -/
theorem serialEventsCommute : Obligations.SerialEventsCommute := fun s b =>
  congrArg Host.Outcome.next (sinkPop_rxPush b s)

/-! ## What no instruction changes: the parameters and the events still to come (10_state.md R15) -/

theorem runCmd_keeps_params_pending (s : State) (c : Cmd) :
    (runCmd s c).params = s.params ∧ (runCmd s c).pending = s.pending := by
  cases c with
  | decode =>
    rcases decodeCmd_cases s with ⟨-, h⟩ | ⟨-, -, -, h⟩ | ⟨-, -, -, -, -, -, h⟩ | ⟨-, -, -, -, -, -, h⟩ <;>
      simp [runCmd, h, decodeStart]
  | decodeStatus =>
    rcases decodeStatusCmd_cases s with ⟨-, h⟩ | ⟨-, -, h⟩ | ⟨-, -, h⟩ <;> simp [runCmd, h, extractFields]
  | checksum => rcases checksumCmd_cases s with ⟨-, h⟩ | ⟨-, h⟩ <;> simp [runCmd, h]
  | encodeControl => rcases encodeControlCmd_cases s with ⟨-, h⟩ | ⟨-, h⟩ <;> simp [runCmd, h]
  | encodeQuery => rcases encodeQueryCmd_cases s with ⟨-, h⟩ | ⟨-, h⟩ <;> simp [runCmd, h]
  | nop | extract | rxClear | txClear => exact ⟨rfl, rfl⟩

theorem rxPush_keeps_params_pending (b : Byte) (s : State) :
    (rxPush b s).params = s.params ∧ (rxPush b s).pending = s.pending := by
  rcases rxPush_cases b s with ⟨-, h⟩ | ⟨-, h⟩ <;> rw [h] <;> exact ⟨rfl, rfl⟩

theorem txPop_keeps_params_pending (s : State) :
    (txPop s).2.params = s.params ∧ (txPop s).2.pending = s.pending := by
  rcases txPop_cases s with ⟨-, h⟩ | ⟨-, h⟩ <;> rw [h] <;> exact ⟨rfl, rfl⟩

theorem sinkPop_keeps_params_pending (s : State) :
    (sinkPop s).params = s.params ∧ (sinkPop s).pending = s.pending := by
  rcases sinkPop_cases s with ⟨-, h⟩ | ⟨-, h⟩ <;> rw [h] <;> exact ⟨rfl, rfl⟩

theorem effect_keeps_params_pending (s : State) (i : Instr) :
    (effect s i).params = s.params ∧ (effect s i).pending = s.pending := by
  rcases effect_cases s i with ⟨c, -, -, -, heq⟩ | ⟨-, -, -, heq⟩ | ⟨-, -, hrest⟩
  · rw [heq]; exact runCmd_keeps_params_pending s c
  · rw [heq]; exact ⟨rfl, rfl⟩
  rcases hrest with ⟨b, -, heq⟩ | ⟨-, heq⟩ | ⟨_, -, heq⟩ | ⟨_, _, _, -, -, -, -, heq⟩ | ⟨-, heq⟩ | ⟨-, heq⟩ <;> rw [heq]
  · exact rxPush_keeps_params_pending b s
  · exact txPop_keeps_params_pending s
  · exact ⟨rfl, rfl⟩
  · exact ⟨rfl, rfl⟩
  · exact ⟨rfl, rfl⟩
  · exact sinkPop_keeps_params_pending s

theorem params_of_execAll {is : List Instr} {s t : State} (h : execAll is s = .next t) : t.params = s.params := by
  induction is generalizing s with
  | nil => injection h with h; rw [h]
  | cons i is ih =>
    rw [execAll_cons] at h
    exact (ih h).trans (effect_keeps_params_pending s i).1

/-! ## DECODE, outcome by outcome (40_frame_receive.md R68) -/

section Decode
variable {s : State}

theorem decodeCmd_badMarker (h : s.rxLen.toNat < 2 ∨ s.hasMarker = false) :
    decodeCmd s = (decodeStart s).finish .badMarker := if_pos h

theorem decodeCmd_badLength (hn : 2 ≤ s.rxLen.toNat) (hm : s.hasMarker = true)
    (h : s.rxLen.toNat < 3 ∨ s.rxOvf = true ∨ shape (s.rxbuf.read 2) = 0x00#8 ∨ s.rxLen ≠ shape (s.rxbuf.read 2)) :
    decodeCmd s = (decodeStart s).finish .badLength := by
  rw [decodeCmd, if_neg (not_or.mpr ⟨by omega, by simp [hm]⟩)]
  by_cases h3 : s.rxLen.toNat < 3
  · rw [if_pos h3]
  · rw [if_neg h3, if_pos (h.resolve_left h3)]

/-- A read that passes the marker and length checks is decided by its checksum. -/
theorem decodeCmd_framed (hn : 3 ≤ s.rxLen.toNat) (hm : s.hasMarker = true) (hovf : s.rxOvf = false)
    (hshape : shape (s.rxbuf.read 2) ≠ 0x00#8) (hlen : s.rxLen = shape (s.rxbuf.read 2)) :
    decodeCmd s =
      if readChecksum s ≠ lastByte s then
        ((decodeStart s).setCksums (readChecksum s) (lastByte s)).finish .checksumMismatch
      else ((((decodeStart s).setCksums (readChecksum s) (lastByte s)).acceptFrame).latch
        (s.rxbuf.read 2) (s.rxbuf.read 3) s.rxLen).finish .ok := by
  rw [decodeCmd, if_neg (not_or.mpr ⟨by omega, by simp [hm]⟩), if_neg (by omega),
    if_neg (by simp only [hovf, not_or]; exact ⟨nofun, hshape, not_not_intro hlen⟩)]

end Decode

theorem State.hasMarker_eq_false_iff (s : State) :
    s.hasMarker = false ↔ s.rxbuf.read 0 ≠ 0x7E#8 ∨ s.rxbuf.read 1 ≠ 0x7E#8 := by
  rw [← Bool.not_eq_true, s.hasMarker_iff, not_and_or]

/-- Settles O17: the four outcomes, with the guards read as statements about the bytes. -/
theorem decodeReportsFirstFailure : Obligations.DecodeReportsFirstFailure := by
  refine ⟨rfl, ?_⟩
  rintro s z n rfl rfl
  refine ⟨fun h => ?_, fun hn h0 h1 h => ?_, fun hn h0 h1 hovf hshape hlen => ?_⟩
  · rw [← s.hasMarker_eq_false_iff] at h
    exact congrArg Host.Outcome.next (decodeCmd_badMarker h)
  · rw [BitVec.toNat_ne_iff_ne] at h
    exact congrArg Host.Outcome.next (decodeCmd_badLength hn (s.hasMarker_iff.mpr ⟨h0, h1⟩) h)
  · have hframed := decodeCmd_framed hn (s.hasMarker_iff.mpr ⟨h0, h1⟩) hovf hshape (BitVec.eq_of_toNat_eq hlen)
    exact ⟨fun hck => congrArg Host.Outcome.next (hframed.trans (if_pos hck)),
      fun hck => congrArg Host.Outcome.next (hframed.trans (if_neg (not_not_intro hck)))⟩

/-- `t` is `s` but for what DECODE writes (R68): the flags, the latches, the checksum bytes and ERR. -/
def AgreeButDecode (s t : State) : Prop :=
  t = { s with frameValid := t.frameValid, cksumOk := t.cksumOk, statusValid := t.statusValid, frameType := t.frameType,
               frameSub := t.frameSub, frameLen := t.frameLen, cksumCalc := t.cksumCalc, cksumRx := t.cksumRx,
               err := t.err }

theorem agreeButDecode_decodeCmd (s : State) : AgreeButDecode s (decodeCmd s) := by
  rcases decodeCmd_cases s with ⟨-, h⟩ | ⟨-, -, -, h⟩ | ⟨-, -, -, -, -, -, h⟩ | ⟨-, -, -, -, -, -, h⟩ <;> rw [h] <;> rfl

/-- DECODE reads none of the elements it writes. -/
theorem AgreeButDecode.decodeCmd_eq {s t : State} (h : AgreeButDecode s t) : decodeCmd t = decodeCmd s := by
  rw [h]; rfl

/-- Settles O20: DECODE changes nothing that DECODE reads. -/
theorem decodeTwiceIsDecodeOnce : Obligations.DecodeTwiceIsDecodeOnce := by
  intro s t h
  rw [exec_next_iff] at h ⊢
  subst h
  exact (agreeButDecode_decodeCmd s).decodeCmd_eq

/-! ## The source's decode of the whole read (40_frame_receive.md R69) -/

section SourceDecode
variable {f : List Byte → Byte} {S : List Byte}

theorem sourceDecode_badMarker (h : S.take 2 ≠ [0x7E#8, 0x7E#8]) : sourceDecode f S = .badMarker := if_pos h

theorem sourceDecode_no_type (h : S.take 2 = [0x7E#8, 0x7E#8]) (hty : S[2]? = none) : sourceDecode f S = .badLength := by
  simp [sourceDecode, h, hty]

theorem sourceDecode_type (h : S.take 2 = [0x7E#8, 0x7E#8]) {ty : Byte} (hty : S[2]? = some ty) :
    sourceDecode f S =
      if S.length ≠ (shape ty).toNat then .badLength
      else if S.getLast? ≠ some (f S.dropLast) then .checksumMismatch
      else .ok := by
  simp [sourceDecode, h, hty]

end SourceDecode

theorem Memory.dropLast_bytes (m : Memory) (n : Nat) : (m.bytes n).dropLast = m.bytes (n - 1) := by
  cases n with
  | zero => rfl
  | succ n => rw [Memory.bytes_succ, List.dropLast_concat, Nat.add_sub_cancel]

theorem Memory.getLast?_bytes (m : Memory) {n : Nat} (hn : 0 < n) : (m.bytes n).getLast? = some (m.read (n - 1)) := by
  obtain ⟨k, rfl⟩ := Nat.exists_eq_succ_of_ne_zero hn.ne'
  rw [Memory.bytes_succ, List.getLast?_concat, Nat.succ_sub_one]

section WholeRead
variable {m : Memory} {S : List Byte} {t : State}

/-- RXBUF keeps the first 255 bytes of the sequence pushed. -/
theorem HoldsRead.getElem? (h : HoldsRead m S t) {i : Nat} (hi : i < 255) :
    S[i]? = if i < t.rxLen.toNat then some (t.rxbuf.read i) else none := by
  obtain ⟨-, hbytes, -⟩ := h
  rw [← List.getElem?_take_of_lt hi, ← hbytes, Memory.getElem?_bytes]

theorem HoldsRead.eq_bytes (h : HoldsRead m S t) (hovf : t.rxOvf = false) : S = t.rxbuf.bytes t.rxLen.toNat := by
  obtain ⟨-, hbytes, hcount, -⟩ := h
  rw [hbytes, List.take_of_length_le]
  simpa [hovf] using hcount

theorem HoldsRead.take_two_eq_marker_iff (h : HoldsRead m S t) :
    S.take 2 = [0x7E#8, 0x7E#8] ↔ 2 ≤ t.rxLen.toNat ∧ t.hasMarker = true := by
  have htake : S.take 2 = [0x7E#8, 0x7E#8] ↔ S[0]? = some 0x7E#8 ∧ S[1]? = some 0x7E#8 := by
    rcases S with _ | ⟨a, _ | ⟨b, S⟩⟩ <;> simp
  rw [htake, h.getElem? (by omega), h.getElem? (by omega), t.hasMarker_iff]
  by_cases hn : 2 ≤ t.rxLen.toNat
  · rw [if_pos (by omega), if_pos (by omega)]; simp [hn]
  · rw [if_neg (by omega : ¬ 1 < t.rxLen.toNat)]; simp [hn]

/-- A shape is at most 255 bytes, so a sequence has a shape's length just when it lies whole in the buffer and fills it. -/
theorem HoldsRead.length_eq_iff (h : HoldsRead m S t) (L : Byte) :
    S.length = L.toNat ↔ t.rxOvf = false ∧ t.rxLen = L := by
  obtain ⟨hlen, -, hcount, -⟩ := h
  rw [← Bool.not_eq_true, hcount, ← BitVec.toNat_inj]
  have := L.isLt
  omega

theorem HoldsRead.type_byte (h : HoldsRead m S t) (hn : 3 ≤ t.rxLen.toNat) : S[2]? = some (t.rxbuf.read 2) := by
  rw [h.getElem? (by omega), if_pos (by omega)]

theorem HoldsRead.last_eq_checksum_iff (h : HoldsRead m S t) (hn : 0 < t.rxLen.toNat) (hovf : t.rxOvf = false) :
    S.getLast? = some (checksumFn t.params S.dropLast) ↔ readChecksum t = lastByte t := by
  rw [h.eq_bytes hovf, Memory.dropLast_bytes, Memory.getLast?_bytes _ hn, Option.some_inj, eq_comm]
  rfl

section Marked
variable (h : HoldsRead m S t) (hm : t.hasMarker = true)
include h hm

theorem HoldsRead.sourceDecode_badLength (hn : 2 ≤ t.rxLen.toNat)
    (hbad : t.rxLen.toNat < 3 ∨ t.rxOvf = true ∨ shape (t.rxbuf.read 2) = 0x00#8 ∨ t.rxLen ≠ shape (t.rxbuf.read 2))
    (f : List Byte → Byte) : sourceDecode f S = .badLength := by
  have hmark := h.take_two_eq_marker_iff.mpr ⟨hn, hm⟩
  by_cases h3 : t.rxLen.toNat < 3
  · exact sourceDecode_no_type hmark (by rw [h.getElem? (by omega), if_neg (by omega)])
  · rw [sourceDecode_type hmark (h.type_byte (by omega)), if_pos]
    rw [Ne, h.length_eq_iff]
    rintro ⟨hovf, hlen⟩
    rcases hbad.resolve_left h3 with ho | hs | hl
    · simp [hovf] at ho
    · simp [hlen, hs] at h3
    · exact hl hlen

theorem HoldsRead.sourceDecode_framed (hn : 3 ≤ t.rxLen.toNat) (hovf : t.rxOvf = false)
    (hlen : t.rxLen = shape (t.rxbuf.read 2)) :
    sourceDecode (checksumFn t.params) S = if readChecksum t ≠ lastByte t then .checksumMismatch else .ok := by
  have hmark := h.take_two_eq_marker_iff.mpr ⟨by omega, hm⟩
  have hlength := (h.length_eq_iff _).mpr ⟨hovf, hlen⟩
  rw [sourceDecode_type hmark (h.type_byte hn), if_neg (not_not_intro hlength)]
  exact if_congr (h.last_eq_checksum_iff (by omega) hovf).not rfl rfl

end Marked

/-- DECODE of the read is the source's decode of the sequence pushed: each outcome of the one is an outcome of the other. -/
theorem HoldsRead.decodeCmd_err (h : HoldsRead m S t) :
    (decodeCmd t).err = (sourceDecode (checksumFn t.params) S).code := by
  rcases decodeCmd_cases t with ⟨hbad, heq⟩ | ⟨hn, hm, hbad, heq⟩ | ⟨hn, hm, hovf, -, hlen, hck, heq⟩ |
    ⟨hn, hm, hovf, -, hlen, hck, heq⟩ <;> rw [heq, State.finish_err]
  · rw [sourceDecode_badMarker]
    rw [Ne, h.take_two_eq_marker_iff]
    rintro ⟨hn, hm⟩
    exact hbad.elim (by omega) (by simp [hm])
  · rw [h.sourceDecode_badLength hm hn hbad]
  · rw [h.sourceDecode_framed hm hn hovf hlen, if_pos hck]
  · rw [h.sourceDecode_framed hm hn hovf hlen, if_neg (not_not_intro hck)]

end WholeRead

/-- Settles O19: the read holds the sequence pushed, and the parameters are those of the start. -/
theorem decodeAnswersForWholeRead : Obligations.DecodeAnswersForWholeRead := by
  intro s is hlen hovf his
  obtain ⟨t, ht, hread⟩ := (holdsRead_nil hlen hovf).execAll is his
  obtain ⟨u, hu, hrun⟩ := execAll_append is [.decode] s
  obtain rfl : t = u := by rw [ht] at hu; injection hu
  refine ⟨decodeCmd t, hrun, ?_⟩
  rw [← params_of_execAll ht]
  exact hread.decodeCmd_err

/-! ## DECODE_STATUS, outcome by outcome (40_frame_receive.md R71) -/

section DecodeStatus
variable {s : State}

theorem decodeStatusCmd_noFrame (hfv : s.frameValid = false) :
    decodeStatusCmd s = (s.setStatusValid false).finish .noFrame := if_pos hfv

theorem decodeStatusCmd_wrongType (hfv : s.frameValid = true) (hsig : hasStatusSignature s = false) :
    decodeStatusCmd s = (s.setStatusValid false).finish .wrongType := by
  rw [decodeStatusCmd, if_neg (by simp [hfv]), if_pos hsig]

theorem decodeStatusCmd_ok (hfv : s.frameValid = true) (hsig : hasStatusSignature s = true) :
    decodeStatusCmd s = ((extractFields s.rxLen.toNat s).setStatusValid true).finish .ok := by
  rw [decodeStatusCmd, if_neg (by simp [hfv]), if_neg (by simp [hsig])]

theorem hasStatusSignature_eq_false_iff :
    hasStatusSignature s = false ↔ s.rxbuf.read 2 ≠ 0xFF#8 ∨ s.rxbuf.read 3 ≠ 0xE0#8 := by
  rw [← Bool.not_eq_true, hasStatusSignature_iff, not_and_or]

/-- A held frame of type FF fills the buffer (I4 and the shape table). -/
theorem State.Inv.rxLen_of_status (h : s.Inv) (hfv : s.frameValid = true) (hty : s.rxbuf.read 2 = 0xFF#8) :
    s.rxLen = 255#8 := by
  obtain ⟨-, hlen, hshape, -⟩ := h.validFrameHeld hfv
  rw [hlen, hshape, hty, shape_status]

end DecodeStatus

/-- Settles O21; the fields on success are those of EXTRACT, since both run ExtractFields over the whole read. -/
theorem decodeStatusEffect : Obligations.DecodeStatusEffect :=
  ⟨rfl, fun s => ⟨fun hfv => congrArg Host.Outcome.next (decodeStatusCmd_noFrame hfv),
    fun hfv hsig => congrArg Host.Outcome.next (decodeStatusCmd_wrongType hfv (hasStatusSignature_eq_false_iff.mpr hsig)),
    fun hfv hty hsub => ⟨extractCmd s, rfl,
      congrArg Host.Outcome.next (decodeStatusCmd_ok hfv ((hasStatusSignature_iff s).mpr ⟨hty, hsub⟩))⟩⟩⟩

/-- Settles O22: the read has 255 bytes, and every field lies within them. -/
theorem decodeStatusFindsEveryField : Obligations.DecodeStatusFindsEveryField := by
  intro s h hp hfv hty hsub
  have hlen : s.rxLen = 255#8 := h.rxLen_of_status hfv hty
  have hvalid : extractedValid s.params s.rxLen.toNat = 0b111111#6 := by rw [hlen]; exact extractedValid_statusFrame hp
  refine ⟨hlen, decodeStatusCmd s, rfl, ?_⟩
  rw [decodeStatusCmd_ok hfv ((hasStatusSignature_iff s).mpr ⟨hty, hsub⟩)]
  exact ⟨hvalid, rfl, rfl⟩

/-! ## What the fields depend on (40_frame_receive.md R73) -/

/-- Two states agree in all an extraction reads: the parameters and the bytes of the read. -/
def SameRead (s t : State) : Prop :=
  s.params = t.params ∧ s.rxLen = t.rxLen ∧ ∀ j, j < s.rxLen.toNat → s.rxbuf.read j = t.rxbuf.read j

theorem SameRead.trans {s t u : State} (hst : SameRead s t) (htu : SameRead t u) : SameRead s u := by
  obtain ⟨hp, hlen, hbytes⟩ := hst
  obtain ⟨hp', hlen', hbytes'⟩ := htu
  exact ⟨hp.trans hp', hlen.trans hlen', fun j hj => (hbytes j hj).trans (hbytes' j (hlen ▸ hj))⟩

/-- FIELD and FVALID of `t` are those of an extraction from `s`. -/
def HoldsFieldsOf (s t : State) : Prop :=
  t.fields = extractedFields s s.rxLen.toNat ∧ t.fvalid = extractedValid s.params s.rxLen.toNat

theorem SameRead.holdsFieldsOf_iff {s s' : State} (h : SameRead s s') (t : State) :
    HoldsFieldsOf s t ↔ HoldsFieldsOf s' t := by
  obtain ⟨hp, hlen, hbytes⟩ := h
  have hfields : extractedFields s s.rxLen.toNat = extractedFields s' s.rxLen.toNat := by
    simp only [extractedFields, fieldValue_congr hp hbytes]
  rw [HoldsFieldsOf, HoldsFieldsOf, hfields, hp, hlen]

theorem HoldsFieldsOf.unique {s t t' : State} (h : HoldsFieldsOf s t) (h' : HoldsFieldsOf s t') :
    t.fields = t'.fields ∧ t.fvalid = t'.fvalid :=
  ⟨h.1.trans h'.1.symm, h.2.trans h'.2.symm⟩

/-- EXTRACT, and a DECODE_STATUS that sets STATUS_VALID, extract from the read they find. -/
theorem holdsFieldsOf_effect {s : State} {i : Instr}
    (hi : i = .extract ∨ (i = .decodeStatus ∧ (effect s i).statusValid = true)) : HoldsFieldsOf s (effect s i) := by
  rcases hi with rfl | ⟨rfl, h⟩
  · exact ⟨rfl, rfl⟩
  · rw [effect] at h ⊢
    rcases decodeStatusCmd_cases s with ⟨-, heq⟩ | ⟨-, -, heq⟩ | ⟨-, -, heq⟩ <;> rw [heq] at h ⊢
    · cases h
    · cases h
    · exact ⟨rfl, rfl⟩

theorem sameRead_effect (s : State) {i : Instr} (hpush : pushedByte i = none) (hclear : instrCommand i ≠ some .rxClear) :
    SameRead s (effect s i) := by
  rcases effect_read_cases s hclear with ⟨b, hb, -⟩ | ⟨-, hbuf, hlen, -⟩
  · simp [hpush] at hb
  · exact ⟨(effect_keeps_params_pending s i).1.symm, hlen.symm, fun j _ => by rw [hbuf]⟩

theorem sameRead_execAll {is : List Instr} {s t : State}
    (his : ∀ i ∈ is, pushedByte i = none ∧ instrCommand i ≠ some .rxClear) (h : execAll is s = .next t) : SameRead s t := by
  induction is generalizing s with
  | nil => injection h with h; subst h; exact ⟨rfl, rfl, fun _ _ => rfl⟩
  | cons i is ih =>
    rw [List.forall_mem_cons] at his
    obtain ⟨⟨hpush, hclear⟩, his⟩ := his
    rw [execAll_cons] at h
    exact (sameRead_effect s hpush hclear).trans (ih his h)

/-- Settles O23: each of the two commands extracts from the read it finds, and nothing between them changes the read. -/
theorem fieldsDependOnReadAlone : Obligations.FieldsDependOnReadAlone := by
  refine ⟨fun i between s t u v hbetween ht hu hv hi => ?_, fun s s' t t' hp hlen hbytes ht ht' => ?_⟩
  · rw [exec_next_iff] at ht hv
    subst ht hv
    have hfirst : SameRead s (effect s i) := by
      rcases hi with rfl | ⟨rfl, -⟩ <;> exact sameRead_effect s rfl (by decide)
    have hsame : SameRead s u := hfirst.trans (sameRead_execAll hbetween hu)
    have hs : HoldsFieldsOf s (effect s i) := holdsFieldsOf_effect (hi.imp_right fun ⟨h, hst, _⟩ => ⟨h, hst⟩)
    have hu' : HoldsFieldsOf u (effect u i) := holdsFieldsOf_effect (hi.imp_right fun ⟨h, _, hsv⟩ => ⟨h, hsv⟩)
    exact hu'.unique ((hsame.holdsFieldsOf_iff _).mp hs)
  · rw [exec_next_iff] at ht ht'
    subst ht ht'
    have hsame : SameRead s s' := ⟨hp, hlen, hbytes⟩
    exact ((hsame.holdsFieldsOf_iff _).mp (holdsFieldsOf_effect (.inl rfl))).unique (holdsFieldsOf_effect (.inl rfl))

end Sys2Proof.Machine

namespace Sys2Proof.Machine

/-! ## Building a frame (41_frame_transmit.md R74, R75) -/

/-- `s` with a frame of the given body in the TX buffer, all of its `len` bytes still to be sent, and ERR = OK: what an
ENCODE that is not refused leads to. -/
def State.loadTx (s : State) (body : List Byte) (len : Byte) : State :=
  (s.setTx (writeFrame s.params s.txbuf body) len 0#8).finish .ok

section Encode
variable {s : State}

theorem State.txPending_eq_false_iff : s.txPending = false ↔ s.txLen.toNat ≤ s.txPtr.toNat := by
  rw [← Bool.not_eq_true, s.txPending_iff, Nat.not_lt]

theorem encodeControlCmd_busy (h : s.txPtr.toNat < s.txLen.toNat) : encodeControlCmd s = s.finish .txBusy :=
  if_pos (s.txPending_iff.mpr h)

theorem encodeControlCmd_free (h : s.txLen.toNat ≤ s.txPtr.toNat) :
    encodeControlCmd s = s.loadTx (controlBody s) 40#8 := by
  rw [encodeControlCmd, State.txPending_eq_false_iff.mpr h]; rfl

theorem encodeQueryCmd_busy (h : s.txPtr.toNat < s.txLen.toNat) : encodeQueryCmd s = s.finish .txBusy :=
  if_pos (s.txPending_iff.mpr h)

theorem encodeQueryCmd_free (h : s.txLen.toNat ≤ s.txPtr.toNat) :
    encodeQueryCmd s = s.loadTx queryHead 5#8 := by
  rw [encodeQueryCmd, State.txPending_eq_false_iff.mpr h]; rfl

end Encode

/-- A whole frame: the bytes of its body, then their checksum. -/
def frameOf (p : Params) (body : List Byte) : List Byte := body ++ [checksumFn p body]

section WriteFrame
variable (p : Params) (m : Memory) (body : List Byte)

theorem bytes_writeFrame_body : (writeFrame p m body).bytes body.length = body := by
  have hbody : (writeFrame p m body).bytes body.length = (m.writeList 0 body).bytes body.length :=
    Memory.bytes_congr fun i hi => by rw [writeFrame, Memory.read_write, if_neg hi.ne]
  rw [hbody, Memory.bytes_writeList]

theorem read_writeFrame_checksum : (writeFrame p m body).read body.length = checksumFn p body := by
  rw [read_writeFrame, if_neg (lt_irrefl _), if_pos rfl]

theorem read_writeFrame_past {i : Nat} (hi : body.length < i) : (writeFrame p m body).read i = m.read i := by
  rw [read_writeFrame, if_neg hi.not_gt, if_neg hi.ne']

theorem bytes_writeFrame : (writeFrame p m body).bytes (body.length + 1) = frameOf p body := by
  rw [Memory.bytes_succ, bytes_writeFrame_body, read_writeFrame_checksum, frameOf]

end WriteFrame

section ControlFrame
variable (p : Params) (m : Memory) (s : State) {i : Nat}

theorem read_writeFrame_controlHead (hi : i < 4) :
    (writeFrame p m (controlBody s)).read i = controlHead.getD i 0#8 := by
  rw [read_writeFrame, length_controlBody, if_pos (by omega), getD_controlBody, if_pos hi]

theorem read_writeFrame_txpay (hi : i < 35) : (writeFrame p m (controlBody s)).read (4 + i) = s.txpay.read i := by
  rw [read_writeFrame, length_controlBody, if_pos (by omega), getD_controlBody, if_neg (by omega), if_pos (by omega),
    Nat.add_sub_cancel_left]

/-- The checksum closes the frame at index 39, taken over the bytes before it as they stand in the buffer. -/
theorem read_writeFrame_control_checksum :
    (writeFrame p m (controlBody s)).read 39 = checksumFn p ((writeFrame p m (controlBody s)).bytes 39) := by
  rw [← length_controlBody s, read_writeFrame_checksum, bytes_writeFrame_body]

end ControlFrame

/-- R98 fixes the checksum of the query frame for every generator. -/
theorem checksumFn_queryHead (p : Params) : checksumFn p queryHead = 0x04#8 := by
  cases hsel : p.checksum with
  | sum8 => simp only [checksumFn, hsel]; decide
  | custom => simp only [checksumFn, hsel, if_true]

/-- Settles O32: the frame is the body of R74 and its checksum, written over the TX buffer. -/
theorem encodeControlEffect : Obligations.EncodeControlEffect := by
  refine ⟨rfl, fun s => ⟨fun h => congrArg Host.Outcome.next (encodeControlCmd_busy h), fun h =>
    ⟨writeFrame s.params s.txbuf (controlBody s), congrArg Host.Outcome.next (encodeControlCmd_free h), ?_⟩⟩⟩
  have hhead : ∀ i, i < 4 → (writeFrame s.params s.txbuf (controlBody s)).read i = controlHead.getD i 0#8 :=
    fun i => read_writeFrame_controlHead s.params s.txbuf s
  exact ⟨hhead 0 (by omega), hhead 1 (by omega), hhead 2 (by omega), hhead 3 (by omega),
    fun i => read_writeFrame_txpay s.params s.txbuf s, read_writeFrame_control_checksum s.params s.txbuf s,
    fun i hi => read_writeFrame_past s.params s.txbuf (controlBody s) (by rw [length_controlBody]; omega)⟩

/-- Settles O33: the frame is the query head of R56 and the checksum R98 fixes for it. -/
theorem encodeQueryEffect : Obligations.EncodeQueryEffect := by
  refine ⟨rfl, fun s => ⟨fun h => congrArg Host.Outcome.next (encodeQueryCmd_busy h), fun h =>
    ⟨_, congrArg Host.Outcome.next (encodeQueryCmd_free h), ?_, fun i hi => read_writeFrame_past _ _ _ hi⟩⟩⟩
  calc (writeFrame s.params s.txbuf queryHead).bytes 5
      = frameOf s.params queryHead := bytes_writeFrame s.params s.txbuf queryHead
    _ = [0x7E#8, 0x7E#8, 0x02#8, 0x02#8, 0x04#8] := by rw [frameOf, checksumFn_queryHead]; rfl

/-! ## Taking a byte (41_frame_transmit.md R76, 20_memory.md R41) -/

section Pop
variable {s : State}

theorem sinkPop_pending (h : s.txPtr.toNat < s.txLen.toNat) : sinkPop s = s.advanceTx.logLine s.nextTxByte :=
  if_pos (s.txPending_iff.mpr h)

theorem sinkPop_empty (h : s.txLen.toNat ≤ s.txPtr.toNat) : sinkPop s = s := by
  rw [sinkPop, State.txPending_eq_false_iff.mpr h]; rfl

theorem txPop_pending (h : s.txPtr.toNat < s.txLen.toNat) : txPop s = (s.nextTxByte, s.advanceTx) :=
  if_pos (s.txPending_iff.mpr h)

theorem txPop_empty (h : s.txLen.toNat ≤ s.txPtr.toNat) : txPop s = (0x00#8, s) := by
  rw [txPop, State.txPending_eq_false_iff.mpr h]; rfl

end Pop

/-- Settles O34: sink and host take the same byte and differ only in the list that shows it. -/
theorem txPopEffect : Obligations.TxPopEffect := by
  refine fun s => ⟨fun h => ⟨congrArg Host.Outcome.next (sinkPop_pending h), ?_⟩, fun h => ?_⟩
  · rw [exec_eq_effect, effect, txPop_pending h]; rfl
  · rw [exec_eq_effect, effect, txPop_empty h]; rfl

/-- Settles O35: with an empty queue the guard of the pop fails. -/
theorem sinkTurnPassesWithNothingPending : Obligations.SinkTurnPassesWithNothingPending :=
  fun _ h => congrArg Host.Outcome.next (sinkPop_empty h)

/-! ## The bytes still to be sent, and taking several of them -/

/-- The bytes of the frame in TXBUF that have not been taken, in wire order. -/
def State.txQueue (s : State) : List Byte := (s.txbuf.bytes s.txLen.toNat).drop s.txPtr.toNat

/-- The instruction by which the byte goes out on the wire (true) or to the host (false). -/
def takeInstr : Bool → Instr
  | true => .serTx
  | false => .rdTxData

/-- From `s` to `t` the bytes `vs` leave the head of the queue, for the line or for the host. -/
structure TakesBytes (wire : Bool) (vs : List Byte) (s t : State) : Prop where
  queue : s.txQueue = vs ++ t.txQueue
  len : t.txLen = s.txLen
  ptr : t.txPtr.toNat = s.txPtr.toNat + vs.length
  line : t.line = s.line ++ if wire then vs else []
  reads : t.reads = s.reads ++ if wire then [] else vs

section TakesBytes
variable {wire : Bool} {v : Byte} {vs ws : List Byte} {s t u : State}

theorem State.txQueue_eq_cons (h : s.txPtr.toNat < s.txLen.toNat) :
    s.txQueue = s.nextTxByte :: s.advanceTx.txQueue := by
  have hsucc : (s.txPtr + 1#8).toNat = s.txPtr.toNat + 1 := by bv_omega
  have hhead : (s.txbuf.bytes s.txLen.toNat)[s.txPtr.toNat]? = some s.nextTxByte := by
    rw [Memory.getElem?_bytes, if_pos h]; rfl
  rw [State.txQueue, List.drop_eq_getElem?_toList_append, hhead, State.txQueue, State.advanceTx]
  simp [hsucc]

theorem State.txPtr_lt_of_txQueue (h : s.txQueue = v :: vs) : s.txPtr.toNat < s.txLen.toNat := by
  have hlen := congrArg List.length h
  rw [State.txQueue, List.length_drop, Memory.length_bytes, List.length_cons] at hlen
  omega

theorem TakesBytes.trans (hst : TakesBytes wire vs s t) (htu : TakesBytes wire ws t u) :
    TakesBytes wire (vs ++ ws) s u where
  queue := by rw [hst.queue, htu.queue, List.append_assoc]
  len := htu.len.trans hst.len
  ptr := by rw [htu.ptr, hst.ptr, List.length_append, Nat.add_assoc]
  line := by rw [htu.line, hst.line, List.append_assoc]; cases wire <;> rfl
  reads := by rw [htu.reads, hst.reads, List.append_assoc]; cases wire <;> simp

/-- What leaves the TX side and the two lists alone takes no byte. -/
theorem TakesBytes.of_tx_eq (hbuf : t.txbuf = s.txbuf) (hlen : t.txLen = s.txLen) (hptr : t.txPtr = s.txPtr)
    (hline : t.line = s.line) (hreads : t.reads = s.reads) : TakesBytes wire [] s t where
  queue := by rw [State.txQueue, State.txQueue, hbuf, hlen, hptr]; rfl
  len := hlen
  ptr := by rw [hptr]; rfl
  line := by rw [hline]; cases wire <;> simp
  reads := by rw [hreads]; cases wire <;> simp

theorem takesBytes_effect_takeInstr (wire : Bool) (h : s.txQueue = v :: vs) :
    TakesBytes wire [v] s (effect s (takeInstr wire)) := by
  have hlt := State.txPtr_lt_of_txQueue h
  have hcons := State.txQueue_eq_cons hlt
  obtain rfl : s.nextTxByte = v := by rw [h] at hcons; injection hcons with hv; exact hv.symm
  have hptr : (s.txPtr + 1#8).toNat = s.txPtr.toNat + 1 := by bv_omega
  cases wire with
  | true => rw [takeInstr, effect, sinkPop_pending hlt]; exact ⟨hcons, rfl, hptr, rfl, by simp [State.advanceTx]⟩
  | false => rw [takeInstr, effect, txPop_pending hlt]; exact ⟨hcons, rfl, hptr, by simp [State.advanceTx], rfl⟩

theorem takesBytes_rxPush (b : Byte) (s : State) : TakesBytes wire [] s (rxPush b s) := by
  rcases rxPush_cases b s with ⟨-, h⟩ | ⟨-, h⟩ <;> rw [h] <;> exact .of_tx_eq rfl rfl rfl rfl rfl

theorem takesBytes_decodeCmd (s : State) : TakesBytes wire [] s (decodeCmd s) := by
  rw [agreeButDecode_decodeCmd s]; exact .of_tx_eq rfl rfl rfl rfl rfl

/-- The sink's turns empty the queue onto the line. -/
theorem takesBytes_execAll_serTx (h : s.txQueue = vs) :
    ∃ t, execAll (List.replicate vs.length .serTx) s = .next t ∧ TakesBytes true vs s t := by
  induction vs generalizing s with
  | nil => exact ⟨s, rfl, .of_tx_eq rfl rfl rfl rfl rfl⟩
  | cons v vs ih =>
    have htake := takesBytes_effect_takeInstr true h
    obtain ⟨t, hrun, hrest⟩ := ih (List.cons_injective (htake.queue.symm.trans h))
    exact ⟨t, by rwa [List.length_cons, List.replicate_succ, execAll_cons], htake.trans hrest⟩

theorem loopInstrs_cons (wire : Bool) (v : Byte) (vs : List Byte) :
    loopInstrs wire (v :: vs) = takeInstr wire :: pushInstr (wire, v) :: loopInstrs wire vs := by
  cases wire <;> rfl

theorem effect_pushInstr (wire : Bool) (b : Byte) (s : State) : effect s (pushInstr (wire, b)) = rxPush b s := by
  cases wire <;> rfl

/-- The loop empties the queue: each byte is taken, and its push leaves the TX side alone. -/
theorem takesBytes_execAll_loopInstrs (wire : Bool) (h : s.txQueue = vs) :
    ∃ t, execAll (loopInstrs wire vs) s = .next t ∧ TakesBytes wire vs s t := by
  induction vs generalizing s with
  | nil => exact ⟨s, by cases wire <;> rfl, .of_tx_eq rfl rfl rfl rfl rfl⟩
  | cons v vs ih =>
    have hturn := (takesBytes_effect_takeInstr wire h).trans (takesBytes_rxPush v _)
    obtain ⟨t, hrun, hrest⟩ := ih (List.cons_injective (hturn.queue.symm.trans h))
    exact ⟨t, by rwa [loopInstrs_cons, execAll_cons, execAll_cons, effect_pushInstr], hturn.trans hrest⟩

end TakesBytes

theorem txQueue_loadTx (s : State) {body : List Byte} {len : Byte} (hlen : body.length + 1 = len.toNat) :
    (s.loadTx body len).txQueue = frameOf s.params body := by
  rw [← bytes_writeFrame s.params s.txbuf, hlen]; rfl

/-- Settles O37: the queue after ENCODE_CONTROL is the 40-byte frame, and each turn of the sink takes its head. -/
theorem controlFrameGoesOutWhole : Obligations.ControlFrameGoesOutWhole := by
  intro s h
  have hqueue : (s.loadTx (controlBody s) 40#8).txQueue = frameOf s.params (controlBody s) :=
    txQueue_loadTx s (by rw [length_controlBody]; rfl)
  have hlen : (frameOf s.params (controlBody s)).length = 40 := by simp [frameOf]
  obtain ⟨t, hrun, htakes⟩ := takesBytes_execAll_serTx hqueue
  have hptr := htakes.ptr
  rw [hlen] at hrun hptr
  refine ⟨s.loadTx (controlBody s) 40#8, t, congrArg Host.Outcome.next (encodeControlCmd_free h), hrun, ?_,
    BitVec.eq_of_toNat_eq hptr, htakes.len⟩
  rw [List.append_assoc, List.append_assoc]
  exact htakes.line

/-! ## A frame looped back (41_frame_transmit.md R77) -/

/-- The bytes before the checksum of a frame that DECODE takes: marker, type, sub-type, and the length of the type's
shape. -/
structure IsFrameBody (ty sub : Byte) (body : List Byte) : Prop where
  marker : body.take 2 = [0x7E#8, 0x7E#8]
  type : body[2]? = some ty
  subType : body[3]? = some sub
  length : body.length + 1 = (shape ty).toNat

theorem isFrameBody_controlBody (s : State) : IsFrameBody 0x25#8 0x01#8 (controlBody s) :=
  ⟨rfl, rfl, rfl, by rw [length_controlBody]; rfl⟩

theorem isFrameBody_queryHead : IsFrameBody 0x02#8 0x02#8 queryHead := ⟨rfl, rfl, rfl, rfl⟩

theorem getElem?_controlBody (s : State) {i : Nat} (hi : i < 35) : (controlBody s)[4 + i]? = some (s.txpay.read i) := by
  rw [controlBody, List.getElem?_append_right (Nat.le_add_right 4 i), Memory.getElem?_bytes]
  simp [controlHead, hi]

section Accept
variable {m : Memory} {S body : List Byte} {ty sub b : Byte} {t : State}

theorem getElem?_frameOf (p : Params) {i : Nat} (h : body[i]? = some b) : (frameOf p body)[i]? = some b := by
  rw [frameOf, List.getElem?_append_left (List.getElem?_eq_some_iff.mp h).1, h]

/-- The checksum byte is the generator's own value, so the source accepts a frame under every generator. -/
theorem IsFrameBody.sourceDecode_frameOf (h : IsFrameBody ty sub body) (p : Params) :
    sourceDecode (checksumFn p) (frameOf p body) = .ok := by
  have h2 : 2 < body.length := (List.getElem?_eq_some_iff.mp h.type).1
  have hmark : (frameOf p body).take 2 = [0x7E#8, 0x7E#8] := by
    rw [frameOf, List.take_append_of_le_length h2.le, h.marker]
  rw [sourceDecode_type hmark (getElem?_frameOf p h.type), if_neg (by simp [frameOf, h.length]),
    if_neg (by simp [frameOf])]

theorem HoldsRead.read_eq (h : HoldsRead m S t) {i : Nat} (hi : i < 255) (hb : S[i]? = some b) : t.rxbuf.read i = b := by
  rw [h.getElem? hi] at hb
  split_ifs at hb
  exact Option.some_inj.mp hb

/-- ERR = OK is what DECODE says on its accepting path alone. -/
theorem decodeCmd_of_err_ok (h : (decodeCmd t).err = 0x00#8) :
    t.rxLen = shape (t.rxbuf.read 2) ∧
      decodeCmd t = ((((decodeStart t).setCksums (readChecksum t) (lastByte t)).acceptFrame).latch
        (t.rxbuf.read 2) (t.rxbuf.read 3) t.rxLen).finish .ok := by
  rcases decodeCmd_cases t with ⟨-, heq⟩ | ⟨-, -, -, heq⟩ | ⟨-, -, -, -, -, -, heq⟩ | ⟨-, -, -, -, hlen, -, heq⟩
  · rw [heq] at h; cases h
  · rw [heq] at h; cases h
  · rw [heq] at h; cases h
  · exact ⟨hlen, heq⟩

/-- DECODE accepts a read that is one whole frame, and latches its type, sub-type and length. -/
theorem IsFrameBody.decodeCmd_accepts (h : IsFrameBody ty sub body) (hread : HoldsRead m (frameOf t.params body) t) :
    (decodeCmd t).err = 0x00#8 ∧ (decodeCmd t).frameValid = true ∧ (decodeCmd t).frameType = ty ∧
      (decodeCmd t).frameSub = sub ∧ (decodeCmd t).frameLen = shape ty := by
  have herr : (decodeCmd t).err = 0x00#8 := by rw [hread.decodeCmd_err, h.sourceDecode_frameOf]; rfl
  have hty : t.rxbuf.read 2 = ty := hread.read_eq (by omega) (getElem?_frameOf _ h.type)
  have hsub : t.rxbuf.read 3 = sub := hread.read_eq (by omega) (getElem?_frameOf _ h.subType)
  obtain ⟨hlen, heq⟩ := decodeCmd_of_err_ok herr
  rw [heq, hlen, hty, hsub]
  exact ⟨rfl, rfl, rfl, rfl, rfl⟩

end Accept

theorem execAll_append_of_next {is : List Instr} {s t : State} (h : execAll is s = .next t) (js : List Instr) :
    execAll (is ++ js) s = execAll js t := by
  obtain ⟨u, hu, happ⟩ := execAll_append is js s
  rw [h] at hu
  injection hu with hu
  rw [happ, hu]

theorem pushedBytes_loopInstrs (wire : Bool) (vs : List Byte) : pushedBytes (loopInstrs wire vs) = vs := by
  induction vs with
  | nil => cases wire <;> rfl
  | cons v vs ih => rw [loopInstrs_cons, ← congrArg (v :: ·) ih]; cases wire <;> rfl

theorem instrCommand_of_mem_loopInstrs {wire : Bool} {vs : List Byte} {i : Instr} (hi : i ∈ loopInstrs wire vs) :
    instrCommand i = none := by
  induction vs with
  | nil => cases wire <;> cases hi
  | cons v vs ih =>
    rw [loopInstrs_cons, List.mem_cons, List.mem_cons] at hi
    rcases hi with rfl | rfl | hi
    · cases wire <;> rfl
    · cases wire <;> rfl
    · exact ih hi

/-- A frame loaded whole and looped back into an empty read: the loop takes its bytes and pushes them, so the read is the
frame, and DECODE accepts it. -/
theorem IsFrameBody.loopback {ty sub : Byte} {body : List Byte} {s u : State} (h : IsFrameBody ty sub body) (wire : Bool)
    (hlen : s.rxLen = 0#8) (hovf : s.rxOvf = false) (hu : u = s.loadTx body (shape ty)) :
    ∃ t, execAll (loopInstrs wire u.txQueue ++ [.decode]) u = .next t ∧ TakesBytes wire u.txQueue u t ∧
      HoldsRead s.rxbuf (frameOf s.params body) t ∧
      t.err = 0x00#8 ∧ t.frameValid = true ∧ t.frameType = ty ∧ t.frameSub = sub ∧ t.frameLen = shape ty := by
  have hqueue : u.txQueue = frameOf s.params body := by rw [hu, txQueue_loadTx s h.length]
  obtain ⟨r, hrun, htakes⟩ := takesBytes_execAll_loopInstrs wire (rfl : u.txQueue = u.txQueue)
  have hparams : r.params = s.params := by rw [params_of_execAll hrun, hu]; rfl
  have hread : HoldsRead s.rxbuf (frameOf s.params body) r := by
    have hempty : HoldsRead s.rxbuf [] u := (holdsRead_nil hlen hovf).congr (hu ▸ rfl) (hu ▸ rfl) (hu ▸ rfl)
    obtain ⟨r', hrun', hread⟩ := hempty.execAll (loopInstrs wire u.txQueue)
      fun i hi => by rw [instrCommand_of_mem_loopInstrs hi]; nofun
    obtain rfl : r = r' := by rw [hrun] at hrun'; injection hrun'
    rwa [pushedBytes_loopInstrs, hqueue] at hread
  obtain ⟨hbuf, hrlen, hrovf⟩ := runCmd_keeps_read r (c := .decode) nofun
  have hall : TakesBytes wire u.txQueue u (decodeCmd r) := by simpa using htakes.trans (takesBytes_decodeCmd r)
  exact ⟨decodeCmd r, execAll_append_of_next hrun [.decode], hall, hread.congr hbuf hrlen hrovf,
    h.decodeCmd_accepts (hparams ▸ hread)⟩

/-- Settles O36: each frame is a body and its checksum, loaded whole, and the read it is looped into is still empty. -/
theorem loopbackRoundTrip : Obligations.LoopbackRoundTrip := by
  intro s wire h hlen hovf
  constructor
  · obtain ⟨t, hrun, htakes, hread, herr, hvalid, hty, hsub, hflen⟩ :=
      (isFrameBody_controlBody s).loopback wire hlen hovf rfl
    exact ⟨s.loadTx (controlBody s) 40#8, t, congrArg Host.Outcome.next (encodeControlCmd_free h), hrun, htakes.line,
      htakes.reads, herr, hvalid, hty, hsub, hflen,
      fun i hi => hread.read_eq (by omega) (getElem?_frameOf _ (getElem?_controlBody s hi))⟩
  · obtain ⟨t, hrun, htakes, -, herr, hvalid, hty, hsub, hflen⟩ := isFrameBody_queryHead.loopback wire hlen hovf rfl
    exact ⟨s.loadTx queryHead 5#8, t, congrArg Host.Outcome.next (encodeQueryCmd_free h), hrun, htakes.line,
      htakes.reads, herr, hvalid, hty, hsub, hflen⟩

end Sys2Proof.Machine

namespace Sys2Proof.Machine

/-! ## The six formulas (42_field_decoder.md R82 to R90) -/

theorem toNat_directValue (b : Byte) : (directValue b).toNat = b.toNat :=
  BitVec.toNat_setWidth_of_le (by omega)

theorem extractLsb'_directValue (b : Byte) : (directValue b).extractLsb' 0 8 = b := by
  rw [directValue, ← BitVec.setWidth_eq_extractLsb' (by omega), BitVec.setWidth_setWidth_of_le b (by omega),
    BitVec.setWidth_eq]

theorem toNat_le16Value (lo hi : Byte) : (le16Value lo hi).toNat = lo.toNat + 256 * hi.toNat := by
  rw [le16Value, BitVec.toNat_ofNat]; omega

theorem le16Value_eq (lo hi : Byte) : le16Value lo hi = lo.setWidth 16 + 256#16 * hi.setWidth 16 := by
  apply BitVec.eq_of_toNat_eq
  have hlo := lo.isLt
  have hhi := hi.isLt
  rw [toNat_le16Value, BitVec.toNat_add, BitVec.toNat_mul, BitVec.toNat_setWidth, BitVec.toNat_setWidth,
    BitVec.toNat_ofNat]
  omega

theorem minusValue_eq (n : Nat) (b : Byte) : minusValue n b = b.setWidth 16 - BitVec.ofNat 16 n := by
  apply BitVec.eq_of_toNat_eq
  have hb := b.isLt
  rw [minusValue, BitVec.toNat_ofInt, BitVec.toNat_sub, BitVec.toNat_setWidth, BitVec.toNat_ofNat]
  omega

/-- Nothing wraps as a signed number: a byte less at most 16 lies well within 16 bits (R95). -/
theorem toInt_minusValue {n : Nat} (hn : n ≤ 16) (b : Byte) : (minusValue n b).toInt = (b.toNat : Int) - n := by
  have hb := b.isLt
  rw [minusValue, BitVec.toInt_ofInt]
  exact Int.bmod_eq_of_le (by omega) (by omega)

/-! ## EXTRACT, field by field (42_field_decoder.md R91, R92) -/

theorem fieldValue_eq_ite (s : State) (n : Nat) (k : FieldId) :
    fieldValue s n k =
      if fieldIndex s.params k + FieldId.width k ≤ n then decodeField s.params s.rxbuf k else 0#16 := by
  simp only [fieldValue, fieldInRange_iff]

/-- The indoor heat exchanger lies last, so a read that holds it holds every field. -/
theorem allInRange_iff_le (p : Params) (n : Nat) : allInRange p n = true ↔ p.fieldBase + 65 ≤ n := by
  rw [allInRange_iff]
  refine ⟨fun h => (fieldInRange_iff p n .ihx).mp (h .ihx), fun h k => (fieldInRange_iff p n k).mpr ?_⟩
  cases k <;> simp only [fieldIndex, FieldId.offset, FieldId.width] <;> omega

theorem extractCmd_err (s : State) :
    (extractCmd s).err = if s.params.fieldBase + 65 ≤ s.rxLen.toNat then 0x00#8 else 0x05#8 := by
  rw [extractCmd, State.finish, State.setErr_err, apply_ite ErrCode.code]
  simp only [allInRange_iff_le]
  rfl

/-- Settles O25: each register and its bit in FVALID by the range condition of their own field. -/
theorem extractEffect : Obligations.ExtractEffect := by
  refine ⟨rfl, fun s B n hB hn => ⟨extractedFields s n, extractedValid s.params n, ?_, ?_⟩⟩ <;> subst hB hn
  · rw [← extractCmd_err]; rfl
  · have hbit := getLsbD_extractedValid s.params s.rxLen.toNat
    have hval := fieldValue_eq_ite s s.rxLen.toNat
    refine ⟨hbit .vp, hval .vp, hbit .lp, ?_, hbit .vt, hval .vt, hbit .lt, hval .lt, hbit .oct, ?_, hbit .ihx, ?_⟩
    · rw [← le16Value_eq]; exact hval .lp
    · rw [← minusValue_eq 16]; exact hval .oct
    · rw [← minusValue_eq]; exact hval .ihx

/-- Settles O26: every field is in range, and no formula leaves the range of its register. -/
theorem fieldQuantities : Obligations.FieldQuantities := by
  intro s B hp hB hn
  subst hB
  obtain ⟨-, hoffset, -⟩ := (Params.admissible_iff _).mp hp
  have hrange := (allInRange_iff _ _).mp ((allInRange_iff_le _ _).mpr hn)
  have hval (k : FieldId) : fieldValue s s.rxLen.toNat k = decodeField s.params s.rxbuf k := if_pos (hrange k)
  have hvalid : extractedValid s.params s.rxLen.toNat = 0b111111#6 :=
    extractedValid_eq fun k => by rw [hrange k]; cases k <;> rfl
  have hvp : (extractCmd s).fields.vp = directValue _ := hval .vp
  have hlp : (extractCmd s).fields.lp = le16Value _ _ := hval .lp
  have hvt : (extractCmd s).fields.vt = directValue _ := hval .vt
  have hlt : (extractCmd s).fields.lt = directValue _ := hval .lt
  have hoct : (extractCmd s).fields.oct = minusValue 16 _ := hval .oct
  have hihx : (extractCmd s).fields.ihx = minusValue s.params.ihxOffset _ := hval .ihx
  refine ⟨extractCmd s, rfl, hvalid, ?_, ?_, ?_, hlt, ?_, ?_, ?_⟩
  · rw [hvp, fieldQuantity, toNat_directValue]; rfl
  · rw [hlp, fieldQuantity, toNat_le16Value]; rfl
  · rw [hvt, fieldQuantity, toNat_directValue]; rfl
  · rw [hlt, fieldQuantity, extractLsb'_directValue]; rfl
  · rw [hoct, fieldQuantity, toInt_minusValue le_rfl]; push_cast; rfl
  · rw [hihx, fieldQuantity, toInt_minusValue (by omega)]; push_cast; rfl

/-- Settles O27: 64 bytes after the base hold every field but the one at offset 64. -/
theorem truncationBoundary : Obligations.TruncationBoundary := by
  intro s _ hn
  have hval := fieldValue_eq_ite s s.rxLen.toNat
  have hvalid : extractedValid s.params s.rxLen.toNat = 0b011111#6 := extractedValid_eq fun k => by
    rw [hn]; cases k <;> simp [fieldInRange, fieldIndex, FieldId.offset, FieldId.width, FieldId.index]
  refine ⟨extractCmd s, rfl, hvalid, ?_, (hval .ihx).trans (if_neg ?_), (hval .vp).trans (if_pos ?_)⟩
  · rw [extractCmd_err, if_neg (by omega)]
  · simp only [fieldIndex, FieldId.offset, FieldId.width]; omega
  · simp only [fieldIndex, FieldId.offset, FieldId.width]; omega

/-! ## Who writes what (10_state.md R16, R18, R24, R25, R29, R30; 42_field_decoder.md R93) -/

/-- The elements of the state that have owners, grouped by who owns them. -/
inductive OwnedPart where
  /-- FIELD and FVALID. -/
  | fields
  /-- The three latches and CKSUM_RX. -/
  | latches
  | rxbuf
  | txbuf
  | txpay

/-- `t` holds what `s` holds in this part. -/
def OwnedPart.Same (s t : State) : OwnedPart → Prop
  | .fields => (t.fields, t.fvalid) = (s.fields, s.fvalid)
  | .latches => (t.frameType, t.frameSub, t.frameLen, t.cksumRx) = (s.frameType, s.frameSub, s.frameLen, s.cksumRx)
  | .rxbuf => t.rxbuf = s.rxbuf
  | .txbuf => t.txbuf = s.txbuf
  | .txpay => t.txpay = s.txpay

/-- The instruction is one of those that may write the part. -/
def OwnedPart.MayBeWrittenBy (i : Instr) : OwnedPart → Prop
  | .fields => instrCommand i = some .extract ∨ instrCommand i = some .decodeStatus
  | .latches => instrCommand i = some .decode
  | .rxbuf => (pushedByte i).isSome = true
  | .txbuf => instrCommand i = some .encodeControl ∨ instrCommand i = some .encodeQuery
  | .txpay => ∃ a d, i = .wr a d ∧ 0x020 ≤ a.toNat ∧ a.toNat ≤ 0x042

/-- `t` is `s` in every part but the one named, if one is. -/
def SameBut (w : Option OwnedPart) (s t : State) : Prop := ∀ p : OwnedPart, w ≠ some p → p.Same s t

/-- The part a command may write. -/
def cmdWrites : Cmd → Option OwnedPart
  | .decode => some .latches
  | .decodeStatus | .extract => some .fields
  | .encodeControl | .encodeQuery => some .txbuf
  | .nop | .checksum | .rxClear | .txClear => none

theorem mayBeWrittenBy_of_cmdWrites {i : Instr} {c : Cmd} {p : OwnedPart} (hi : instrCommand i = some c)
    (hc : cmdWrites c = some p) : p.MayBeWrittenBy i := by
  cases c <;> cases hc <;> simp [OwnedPart.MayBeWrittenBy, hi]

theorem runCmd_sameBut (s : State) (c : Cmd) : SameBut (cmdWrites c) s (runCmd s c) := by
  intro p hp
  cases c with
  | decode =>
    rw [runCmd, agreeButDecode_decodeCmd s]
    cases p with
    | latches => exact absurd rfl hp
    | _ => exact rfl
  | decodeStatus =>
    rcases decodeStatusCmd_cases s with ⟨-, h⟩ | ⟨-, -, h⟩ | ⟨-, -, h⟩ <;> rw [runCmd, h] <;>
      cases p with
      | fields => exact absurd rfl hp
      | _ => exact rfl
  | extract =>
    cases p with
    | fields => exact absurd rfl hp
    | _ => exact rfl
  | checksum => rcases checksumCmd_cases s with ⟨-, h⟩ | ⟨-, h⟩ <;> rw [runCmd, h] <;> cases p <;> exact rfl
  | encodeControl =>
    rcases encodeControlCmd_cases s with ⟨-, h⟩ | ⟨-, h⟩ <;> rw [runCmd, h] <;>
      cases p with
      | txbuf => exact absurd rfl hp
      | _ => exact rfl
  | encodeQuery =>
    rcases encodeQueryCmd_cases s with ⟨-, h⟩ | ⟨-, h⟩ <;> rw [runCmd, h] <;>
      cases p with
      | txbuf => exact absurd rfl hp
      | _ => exact rfl
  | nop | rxClear | txClear => cases p <;> exact rfl

theorem rxPush_sameBut (b : Byte) (s : State) : SameBut (some .rxbuf) s (rxPush b s) := by
  intro p hp
  rcases rxPush_cases b s with ⟨-, h⟩ | ⟨-, h⟩ <;> rw [h] <;>
    cases p with
    | rxbuf => exact absurd rfl hp
    | _ => exact rfl

theorem txPop_logRead_sameBut (s : State) (b : Byte) : SameBut none s ((txPop s).2.logRead b) := by
  intro p _
  rcases txPop_cases s with ⟨-, h⟩ | ⟨-, h⟩ <;> rw [h] <;> cases p <;> exact rfl

theorem sinkPop_sameBut (s : State) : SameBut none s (sinkPop s) := by
  intro p _
  rcases sinkPop_cases s with ⟨-, h⟩ | ⟨-, h⟩ <;> rw [h] <;> cases p <;> exact rfl

theorem setTxpay_sameBut (s : State) (m : Memory) : SameBut (some .txpay) s (s.setTxpay m) := by
  intro p hp
  cases p with
  | txpay => exact absurd rfl hp
  | _ => exact rfl

/-- An instruction leaves every part alone but one that it may write. -/
theorem effect_sameBut (s : State) (i : Instr) :
    ∃ w : Option OwnedPart, SameBut w s (effect s i) ∧ ∀ p : OwnedPart, w = some p → p.MayBeWrittenBy i := by
  rcases effect_cases s i with ⟨c, hc, -, -, heq⟩ | ⟨-, -, -, heq⟩ | ⟨-, -, hrest⟩
  · exact ⟨cmdWrites c, heq ▸ runCmd_sameBut s c, fun p => mayBeWrittenBy_of_cmdWrites hc⟩
  · exact ⟨none, fun p _ => by rw [heq]; cases p <;> exact rfl, nofun⟩
  rcases hrest with ⟨b, hb, heq⟩ | ⟨-, heq⟩ | ⟨b, -, heq⟩ | ⟨a, d, j, hi, -, hj, ha, heq⟩ | ⟨-, heq⟩ | ⟨-, heq⟩ <;>
    rw [heq]
  · exact ⟨some .rxbuf, rxPush_sameBut b s, fun p hp => by cases hp; exact Option.isSome_of_eq_some hb⟩
  · exact ⟨none, txPop_logRead_sameBut s _, nofun⟩
  · exact ⟨none, fun p _ => by cases p <;> exact rfl, nofun⟩
  · exact ⟨some .txpay, setTxpay_sameBut s _, fun p hp => by cases hp; exact ⟨a, d, hi, by omega, by omega⟩⟩
  · exact ⟨none, fun p _ => by cases p <;> exact rfl, nofun⟩
  · exact ⟨none, sinkPop_sameBut s, nofun⟩

/-- Settles O47, part by part: a part that changed is the one the instruction may write. -/
theorem onlyTheNamedOperationsWrite : Obligations.OnlyTheNamedOperationsWrite := by
  intro i s t h
  rw [exec_next_iff] at h
  subst h
  obtain ⟨w, hsame, howner⟩ := effect_sameBut s i
  have hchanged (p : OwnedPart) (hp : ¬ p.Same s (effect s i)) : p.MayBeWrittenBy i :=
    howner p (not_not.mp (mt (hsame p) hp))
  refine ⟨fun h => hchanged .fields ?_, fun h => hchanged .latches ?_, hchanged .rxbuf, hchanged .txbuf, hchanged .txpay⟩
  · simpa only [OwnedPart.Same, Prod.mk.injEq, not_and_or] using h
  · simpa only [OwnedPart.Same, Prod.mk.injEq, not_and_or] using h

end Sys2Proof.Machine

namespace Sys2Proof.Machine

/-! ## No frame accepted without verify (43_checksum.md R99) -/

/-- Every shape leaves room for a marker, a type, a sub-type and a checksum byte (30_encoding.md R55). -/
theorem five_le_shape {ty : Byte} (h : shape ty ≠ 0x00#8) : 5 ≤ (shape ty).toNat := by
  rcases shape_range ty with h0 | h5 | h40 | h255
  · exact absurd h0 h
  · rw [h5]; decide
  · rw [h40]; decide
  · rw [h255]; decide

/-- DECODE holds a frame only on its accepting path, where the two checksum bytes agree. -/
theorem decodeCmd_of_frameValid {s : State} (h : (decodeCmd s).frameValid = true) :
    5 ≤ s.rxLen.toNat ∧ readChecksum s = lastByte s ∧
      decodeCmd s = ((((decodeStart s).setCksums (readChecksum s) (lastByte s)).acceptFrame).latch
        (s.rxbuf.read 2) (s.rxbuf.read 3) s.rxLen).finish .ok := by
  rcases decodeCmd_cases s with ⟨-, heq⟩ | ⟨-, -, -, heq⟩ | ⟨-, -, -, -, -, -, heq⟩ | ⟨-, -, -, hshape, hlen, hck, heq⟩
  · rw [heq] at h; cases h
  · rw [heq] at h; cases h
  · rw [heq] at h; cases h
  · exact ⟨hlen ▸ five_le_shape hshape, hck, heq⟩

/-- Every command but DECODE leaves FRAME_VALID alone or, as RX_CLEAR, takes it to 0. -/
theorem frameValid_of_runCmd {s : State} {c : Cmd} (hc : c ≠ .decode) (h : (runCmd s c).frameValid = true) :
    s.frameValid = true := by
  cases c with
  | decode => exact absurd rfl hc
  | decodeStatus =>
    rcases decodeStatusCmd_cases s with ⟨-, heq⟩ | ⟨-, -, heq⟩ | ⟨-, -, heq⟩ <;> rw [runCmd, heq] at h <;> exact h
  | checksum => rcases checksumCmd_cases s with ⟨-, heq⟩ | ⟨-, heq⟩ <;> rw [runCmd, heq] at h <;> exact h
  | encodeControl => rcases encodeControlCmd_cases s with ⟨-, heq⟩ | ⟨-, heq⟩ <;> rw [runCmd, heq] at h <;> exact h
  | encodeQuery => rcases encodeQueryCmd_cases s with ⟨-, heq⟩ | ⟨-, heq⟩ <;> rw [runCmd, heq] at h <;> exact h
  | rxClear => cases h
  | nop | extract | txClear => exact h

/-- A pushed byte drops the held frame. -/
theorem rxPush_frameValid (b : Byte) (s : State) : (rxPush b s).frameValid = false := by
  rcases rxPush_cases b s with ⟨-, heq⟩ | ⟨-, heq⟩ <;> simp [heq]

theorem txPop_frameValid (s : State) : (txPop s).2.frameValid = s.frameValid := by
  rcases txPop_cases s with ⟨-, heq⟩ | ⟨-, heq⟩ <;> simp [heq]

theorem sinkPop_frameValid (s : State) : (sinkPop s).frameValid = s.frameValid := by
  rcases sinkPop_cases s with ⟨-, heq⟩ | ⟨-, heq⟩ <;> simp [heq]

/-- Only an instruction that runs DECODE takes FRAME_VALID from 0 to 1. -/
theorem frameValid_of_effect {s : State} {i : Instr} (hi : instrCommand i ≠ some .decode)
    (h : (effect s i).frameValid = true) : s.frameValid = true := by
  rcases effect_cases s i with ⟨c, hc, -, -, heq⟩ | ⟨-, -, -, heq⟩ | ⟨-, -, hrest⟩
  · exact frameValid_of_runCmd (fun hdec => hi (hdec ▸ hc)) (heq ▸ h)
  · rw [heq] at h; exact h
  rcases hrest with ⟨b, -, heq⟩ | ⟨-, heq⟩ | ⟨_, -, heq⟩ | ⟨_, _, _, -, -, -, -, heq⟩ | ⟨-, heq⟩ | ⟨-, heq⟩ <;>
    rw [heq] at h
  · rw [rxPush_frameValid] at h; cases h
  · exact (txPop_frameValid s).symm.trans h
  · exact h
  · exact h
  · exact h
  · exact (sinkPop_frameValid s).symm.trans h

/-- An instruction that runs DECODE, by its own row or as a write of CMD, has DECODE's effect. -/
theorem effect_of_decodeCommand (s : State) {i : Instr} (hi : instrCommand i = some .decode) :
    effect s i = decodeCmd s := by
  rcases effect_cases s i with ⟨c, hc, -, -, heq⟩ | ⟨hc, -⟩ | ⟨hc, -⟩
  · obtain rfl : c = .decode := Option.some_inj.mp (hc.symm.trans hi)
    exact heq
  · cases hc.symm.trans hi
  · cases hc.symm.trans hi

/-- Settles O31: the instruction runs DECODE, and DECODE took its accepting path. -/
theorem noFrameAcceptedUnverified : Obligations.NoFrameAcceptedUnverified := by
  intro i s t hexec hs ht
  rw [exec_next_iff] at hexec
  subst hexec
  have hi : instrCommand i = some .decode := by
    by_contra hne
    rw [frameValid_of_effect hne ht] at hs
    cases hs
  rw [effect_of_decodeCommand s hi] at ht ⊢
  obtain ⟨hlen, hck, heq⟩ := decodeCmd_of_frameValid ht
  rw [heq]
  exact ⟨hi, rfl, Nat.le_of_succ_le hlen, rfl, rfl, hck⟩

/-! ## The checksum generator (43_checksum.md R97, R98) -/

theorem sum8_of_length_le_two {bs : List Byte} (h : bs.length ≤ 2) : sum8 bs = 0#8 := by
  rw [sum8, List.drop_eq_nil_of_le h]; rfl

/-- Past the marker each byte adds itself, carries discarded. -/
theorem sum8_append_singleton {bs : List Byte} (h : 2 ≤ bs.length) (b : Byte) : sum8 (bs ++ [b]) = sum8 bs + b := by
  rw [sum8, List.drop_append_of_le_length h, List.map_append, List.sum_append, BitVec.ofNat_add]
  simp [sum8]

theorem checksumFn_of_sum8 {p : Params} (hp : p.checksum = .sum8) (bs : List Byte) : checksumFn p bs = sum8 bs := by
  rw [checksumFn, hp]

/-- Settles O30. -/
theorem defaultChecksumAccumulates : Obligations.DefaultChecksumAccumulates := by
  intro p hp
  simp only [checksumFn_of_sum8 hp]
  exact ⟨fun _ => sum8_of_length_le_two, fun _ b h => sum8_append_singleton h b⟩

/-- Settles O29: the four bytes are the body of the query frame. -/
theorem checksumOfQueryHead : Obligations.ChecksumOfQueryHead := checksumFn_queryHead

/-! ## CHECKSUM (43_checksum.md R101) -/

section ChecksumCommand
variable {s : State}

theorem checksumCmd_overflowed (hovf : s.rxOvf = true) :
    checksumCmd s = (s.setCksums 0x00#8 s.cksumRx).finish .rxOverflow := if_pos hovf

theorem checksumCmd_whole (hovf : s.rxOvf = false) :
    checksumCmd s = (s.setCksums (checksumFn s.params (s.rxbuf.bytes s.rxLen.toNat)) s.cksumRx).finish .ok :=
  if_neg (Bool.eq_false_iff.mp hovf)

end ChecksumCommand

/-- Settles O28: an overflowed read is reported, any other is summed whole. -/
theorem checksumEffect : Obligations.ChecksumEffect :=
  ⟨rfl, fun _ => ⟨fun hovf => congrArg Host.Outcome.next (checksumCmd_overflowed hovf),
    fun hovf => congrArg Host.Outcome.next (checksumCmd_whole hovf)⟩⟩

end Sys2Proof.Machine

namespace Sys2Proof.Machine

/-! ## Buffer control (44_buffer_control.md R102 to R104) -/

/-- Settles O38. -/
theorem nopEffect : Obligations.NopEffect := ⟨decode_cmd_word .nop, exec_eq_effect .nop⟩

/-- Settles O39: `rxClearCmd` writes RXBUF back as it is. -/
theorem rxClearEffect : Obligations.RxClearEffect := ⟨decode_cmd_word .rxClear, exec_eq_effect .rxClear⟩

section TxClear
variable (s : State)

/-- No byte is left to send, which is what frees an ENCODE. -/
theorem txClearCmd_txLen_le_txPtr : (txClearCmd s).txLen.toNat ≤ (txClearCmd s).txPtr.toNat := by simp [txClearCmd]

theorem getLsbD_stat_txClearCmd : (txClearCmd s).stat.getLsbD 5 = false := by
  rw [State.getLsbD_stat]
  exact State.txPending_eq_false_iff.mpr (txClearCmd_txLen_le_txPtr s)

end TxClear

theorem State.loadTx_err (s : State) (body : List Byte) (len : Byte) : (s.loadTx body len).err = 0x00#8 := rfl

/-- Settles O40: TX_CLEAR leaves nothing pending, so each ENCODE after it takes its free path. -/
theorem txClearEffect : Obligations.TxClearEffect := by
  refine ⟨decode_cmd_word .txClear, fun s => ⟨txClearCmd s, rfl, exec_eq_effect .txClear s, getLsbD_stat_txClearCmd s,
    ?_, ?_⟩⟩
  · exact ⟨_, congrArg Host.Outcome.next (encodeControlCmd_free (txClearCmd_txLen_le_txPtr s)), State.loadTx_err ..⟩
  · exact ⟨_, congrArg Host.Outcome.next (encodeQueryCmd_free (txClearCmd_txLen_le_txPtr s)), State.loadTx_err ..⟩

end Sys2Proof.Machine

namespace Sys2Proof.Machine

/-! ## Every instruction completes (60_exceptions.md R106, R112) -/

/-- Waiting and the reset event leave the parameters alone as every instruction does. -/
theorem params_of_step {s t : State} (h : step s = .next t) : t.params = s.params := by
  obtain ⟨-, ⟨-, rfl⟩ | ⟨rest, -, rfl⟩ | ⟨p, i, rest, -, -, rfl⟩⟩ := step_cases h
  · rfl
  · rfl
  · exact (effect_keeps_params_pending (s.setPending rest) i).1

/-- Settles O14: exec answers the state of `effect`, which keeps the parameters and the events still to come. -/
theorem everyInstructionCompletes : Obligations.EveryInstructionCompletes :=
  ⟨fun i s => ⟨effect s i, exec_eq_effect i s, effect_keeps_params_pending s i⟩, fun _ _ => params_of_step⟩

/-! ## Every element is readable (60_exceptions.md R119) -/

/-- A read that only adds `v` to what was read before has returned the register's read value. -/
theorem readValue_eq_of_exec_rd {s : State} {a : Addr} {r : Reg} {v : Byte} (hreg : regAt a = some r) (hr : r ≠ .txData)
    (h : exec (.rd a) s = .next { s with reads := s.reads ++ [v] }) : readValue s r = v := by
  rw [exec_next_iff, effect_rd_of_regAt hreg hr] at h
  simpa using congrArg State.reads h

/-- Every register of the map but TX_DATA, whose read is a pop, has one read value in both states. -/
def ReadAlike (s t : State) : Prop := ∀ a r, regAt a = some r → r ≠ .txData → readValue s r = readValue t r

section ReadAlike
variable {s t : State}

theorem readAlike_of_exec_rd
    (h : ∀ a : Addr, a ≠ 0x00E#10 → ∃ v, exec (.rd a) s = .next { s with reads := s.reads ++ [v] } ∧
      exec (.rd a) t = .next { t with reads := t.reads ++ [v] }) : ReadAlike s t := by
  intro a r hreg hr
  have ha : a ≠ 0x00E#10 := fun ha => hr (Option.some.inj (hreg.symm.trans (regAt_txData.mpr ha)))
  obtain ⟨v, hs, ht⟩ := h a ha
  rw [readValue_eq_of_exec_rd hreg hr hs, readValue_eq_of_exec_rd hreg hr ht]

/-- The four flags that are stored are bits 0 to 3 of STAT; the bits above are derived. -/
theorem ReadAlike.flags_eq (h : ReadAlike s t) : s.frameValid = t.frameValid ∧ s.cksumOk = t.cksumOk ∧
    s.statusValid = t.statusValid ∧ s.rxOvf = t.rxOvf := by
  have hbit (i : Nat) : s.stat.getLsbD i = t.stat.getLsbD i :=
    congrArg (BitVec.getLsbD · i) (h 0x002#10 .stat rfl nofun)
  simp only [State.getLsbD_stat] at hbit
  exact ⟨hbit 0, hbit 1, hbit 2, hbit 3⟩

theorem ReadAlike.fvalid_eq (h : ReadAlike s t) : s.fvalid = t.fvalid := by
  have hread : s.fvalid.setWidth 8 = t.fvalid.setWidth 8 := h 0x00A#10 .fvalid rfl nofun
  simpa using congrArg (BitVec.setWidth 6) hread

theorem Fields.eq_of_get {f g : Fields} (h : ∀ k, f.get k = g.get k) : f = g :=
  (Fields.mk.injEq ..).mpr ⟨h .vp, h .lp, h .vt, h .lt, h .oct, h .ihx⟩

/-- A field register is its two bytes, high before low. -/
theorem append_bytes (v : Half) : v.extractLsb' 8 8 ++ v.extractLsb' 0 8 = v := BitVec.extractLsb'_append_extractLsb'

theorem ReadAlike.fields_eq (h : ReadAlike s t) : s.fields = t.fields := by
  refine Fields.eq_of_get fun k => ?_
  have hlo : (s.fields.get k).extractLsb' 0 8 = (t.fields.get k).extractLsb' 0 8 :=
    h _ (.fieldLo k) (regAt_regAddr (.fieldLo k) trivial) nofun
  have hhi : (s.fields.get k).extractLsb' 8 8 = (t.fields.get k).extractLsb' 8 8 :=
    h _ (.fieldHi k) (regAt_regAddr (.fieldHi k) trivial) nofun
  rw [← append_bytes (s.fields.get k), hhi, hlo, append_bytes]

/-- The windows show every byte of the three buffers, which in canonical form have no other content. -/
theorem ReadAlike.buffers_eq (h : ReadAlike s t) (hs : s.BuffersCanonical) (ht : t.BuffersCanonical) :
    s.rxbuf = t.rxbuf ∧ s.txpay = t.txpay ∧ s.txbuf = t.txbuf := by
  obtain ⟨hrx, hrxSize, hpay, hpaySize, htx, htxSize⟩ := hs
  obtain ⟨hrx', hrxSize', hpay', hpaySize', htx', htxSize'⟩ := ht
  refine ⟨Memory.ext_of_read hrx hrx' hrxSize hrxSize' fun i hi => ?_,
    Memory.ext_of_read hpay hpay' hpaySize hpaySize' fun i hi => ?_,
    Memory.ext_of_read htx htx' htxSize htxSize' fun i hi => ?_⟩
  · exact h _ (.rxwin i) (regAt_regAddr (.rxwin i) hi) nofun
  · exact h _ (.txpay i) (regAt_regAddr (.txpay i) hi) nofun
  · exact h _ (.txwin i) (regAt_regAddr (.txwin i) hi) nofun

/-- The registers that are one byte of their own, in the order of the register map. -/
theorem ReadAlike.byteRegisters_eq (h : ReadAlike s t) : s.err = t.err ∧ s.rxLen = t.rxLen ∧
    s.frameType = t.frameType ∧ s.frameSub = t.frameSub ∧ s.frameLen = t.frameLen ∧ s.cksumCalc = t.cksumCalc ∧
    s.cksumRx = t.cksumRx ∧ s.txLen = t.txLen ∧ s.txPtr = t.txPtr :=
  ⟨h 0x001#10 .err rfl nofun, h 0x003#10 .rxLen rfl nofun, h 0x005#10 .frameType rfl nofun,
    h 0x006#10 .frameSub rfl nofun, h 0x007#10 .frameLen rfl nofun, h 0x008#10 .cksumCalc rfl nofun,
    h 0x009#10 .cksumRx rfl nofun, h 0x00B#10 .txLen rfl nofun, h 0x00C#10 .txPtr rfl nofun⟩

end ReadAlike

/-- Settles O48: the bytes of the register map fix the byte registers, the flags in STAT, the fields and the buffers. -/
theorem everyElementIsReadable : Obligations.EveryElementIsReadable := by
  intro s t hs ht hread
  have h : ReadAlike s t := readAlike_of_exec_rd hread
  obtain ⟨herr, hrxLen, htype, hsub, hlen, hcalc, hrx, htxLen, htxPtr⟩ := h.byteRegisters_eq
  obtain ⟨hframe, hcksum, hstatus, hovf⟩ := h.flags_eq
  obtain ⟨hrxbuf, htxpay, htxbuf⟩ := h.buffers_eq hs ht
  rw [← herr, ← hrxLen, ← htype, ← hsub, ← hlen, ← hcalc, ← hrx, ← htxLen, ← htxPtr, ← hframe, ← hcksum, ← hstatus,
    ← hovf, ← h.fvalid_eq, ← h.fields_eq, ← hrxbuf, ← htxpay, ← htxbuf]

end Sys2Proof.Machine

namespace Sys2Proof.Machine

/-! ## A push after DECODE (70_reset_and_hazards.md R126) -/

theorem rxPush_statusValid (b : Byte) (s : State) : (rxPush b s).statusValid = false := by
  rcases rxPush_cases b s with ⟨-, heq⟩ | ⟨-, heq⟩ <;> simp [heq]

/-- FIELD and FVALID are no part of what a push writes. -/
theorem rxPush_fields_fvalid (b : Byte) (s : State) :
    (rxPush b s).fields = s.fields ∧ (rxPush b s).fvalid = s.fvalid :=
  Prod.mk.inj (rxPush_sameBut b s .fields nofun)

/-- Settles O24: both agents perform `rxPush`, which drops the frame, so the DECODE_STATUS after it finds none. -/
theorem pushInvalidatesDecodedFrame : Obligations.PushInvalidatesDecodedFrame := by
  rintro s ⟨wire, b⟩
  obtain ⟨hfields, hfvalid⟩ := rxPush_fields_fvalid b s
  have hpush : exec (pushInstr (wire, b)) s = .next (rxPush b s) := exec_next_iff.mpr (effect_pushInstr wire b s)
  have hstatus : exec .decodeStatus (rxPush b s) = .next (((rxPush b s).setStatusValid false).finish .noFrame) :=
    exec_next_iff.mpr (decodeStatusCmd_noFrame (rxPush_frameValid b s))
  exact ⟨_, _, hpush, rxPush_frameValid b s, rxPush_statusValid b s, hfields, hfvalid, hstatus, rfl, rfl,
    hfields, hfvalid⟩

/-! ## Reset (70_reset_and_hazards.md R121) -/

theorem step_reset {s : State} {rest : List Input} (hp : s.params.admissible = true)
    (hpend : s.pending = .reset :: rest) : step s = .next (resetEvent (s.setPending rest)) := by
  rw [step, if_pos hp, hpend]

theorem fields_get_reset (k : FieldId) : State.reset.fields.get k = 0#16 := by cases k <;> rfl

theorem stat_reset : State.reset.stat = 0#8 := by decide

/-- Settles O9: the reset event is one case of the step, and each reset value is read off `State.reset`. -/
theorem resetSetsEveryElement : Obligations.ResetSetsEveryElement :=
  ⟨fun _ _ hp hpend => step_reset hp hpend, fun _ => ⟨rfl, rfl, rfl⟩, rfl, rfl, rfl, rfl, rfl, rfl, rfl, rfl, rfl, rfl,
    rfl, rfl, rfl, fields_get_reset, rfl, stat_reset, rfl⟩

/-! ## Host reads right after reset (20_memory.md R37, 95_test_vectors.md V-R) -/

theorem readValue_reset (r : Reg) : readValue State.reset r = 0x00#8 := by
  cases r with
  | stat => exact stat_reset
  | fieldLo k => rw [readValue, fields_get_reset]; rfl
  | fieldHi k => rw [readValue, fields_get_reset]; rfl
  | _ => rfl

theorem hostByte_reset (a : Addr) : hostByte a State.reset = 0x00#8 := by
  rw [hostByte]
  cases regAt a with
  | none => rfl
  | some r => exact readValue_reset r

/-- A read of TX_DATA pops from an empty queue; any other read changes no state. -/
theorem hostRead_reset (a : Addr) : hostRead a State.reset = (0x00#8, State.reset) := by
  rcases hostRead_cases a State.reset with ⟨-, heq⟩ | ⟨-, heq⟩
  · rw [heq, txPop_empty le_rfl]
  · rw [heq, hostByte_reset]

/-- Settles O10, for all addresses at once by what a host read can do. -/
theorem everyAddressReadsZeroAfterReset : Obligations.EveryAddressReadsZeroAfterReset := by
  intro a
  rw [exec_eq_effect, effect, hostRead_reset]
  rfl

end Sys2Proof.Machine
